-- ==== Sys2Proof/Word.lean ====
section
/-! DEFINITION. The word types of the engine: a byte of either stream, and a run of stream bits.

The engine has no machine word: every quantity is a bit, a byte, a small natural number or an array of
them (rule R17).  A `Bits` value lists stream bits in the order the stream gives them, first bit first. -/

namespace Sys2Proof

/-- A byte of the compressed input or of the decoded output, 8 bits (rule R11). -/
abbrev Byte := BitVec 8

/-- Stream bits in stream order: the head is the next bit of the stream (rules R12 and R13). -/
abbrev Bits := List Bool

end Sys2Proof
end

