-- ==== Sys2Proof/Machine/Types.lean ====
section
/-! DEFINITION. The plain-data types that the engine's state is made of: the configuration record, the
phases, the error kinds, the decode tables in each strategy's own representation, the bit-stream
parser's registers, the working registers, the run buffer and the host port. -/

namespace Sys2Proof

/-! ### Enumerations -/

/-- `CFG.MODE` (R21): the format variant, fixed at construction (R106). -/
inductive Mode where
  | deflate
  | deflate64
  deriving DecidableEq, Repr, Inhabited

/-- `CFG.DECODER` (R21): the decode-table strategy. -/
inductive DecoderKind where
  | trieStateSymbol
  | trieSymbolState
  | genericMap
  | tree
  | table
  deriving DecidableEq, Repr, Inhabited

/-- `CFG.MAPBACK` (R21): the backing of the sparse integer map of the two trie strategies (R157). -/
inductive MapBack where
  | hash
  | slotArray
  deriving DecidableEq, Repr, Inhabited

/-- `CFG.BUFFER` (R21): the run-buffer strategy. -/
inductive BufferKind where
  | cyclic
  | copyOnGrow
  | blockList
  | nativeStrict
  | nativeLenient
  deriving DecidableEq, Repr, Inhabited

/-- `CFG.POLICY` (R21) with its argument: the resize policy (R200 to R209). -/
inductive Policy where
  | arithDoubling (step : Nat)
  | pow2Shift
  | tablePaper
  | tableGolden
  | tableNatural
  | tablePaperPrime
  | tableGoldenPrime
  | tableNaturalPrime
  | random (seed : Nat)
  deriving DecidableEq, Repr, Inhabited

/-- `PHASE` (R25): the state of the block state machine. -/
inductive Phase where
  | header
  | stored
  | fixed
  | dynamic
  | done
  | failed
  | closed
  deriving DecidableEq, Repr, Inhabited

/-- `SUB` (R26): the sub-phase inside `STORED`, `FIXED` and `DYNAMIC`. -/
inductive Sub where
  | sHdr
  | sData
  | dCounts
  | dCllens
  | dLens
  | dBuild
  | dData
  | fData
  deriving DecidableEq, Repr, Inhabited

/-- The eight error kinds (R400), in the order of the source. -/
inductive ErrKind where
  | incompleteCode
  | invalidBlockType
  | lengthCheckMismatch
  | invalidBackReference
  | unexpectedEndOfStream
  | signatureMismatch
  | checksumMismatch
  | unsupportedCompressionMethod
  deriving DecidableEq, Repr, Inhabited

/-- `EMPTY_DIST_CODE` (R10, R139): a dynamic block whose distance lengths are all zero. -/
inductive EmptyDistCode where
  | acceptFaultOnUse
  | faultAtBuild
  deriving DecidableEq, Repr, Inhabited

/-- `REP16_AT_START` (R10, R278): code-length symbol 16 with no previous length. -/
inductive Rep16AtStart where
  | fault
  | repeatZero
  deriving DecidableEq, Repr, Inhabited

/-- `ERR_DELIVERY` (R10, R347): bytes produced before a fault. -/
inductive ErrDelivery where
  | drainFirst
  | immediate
  deriving DecidableEq, Repr, Inhabited

/-- `READBUF_COUNT` (R10, R343): how many bytes a buffered read returns. -/
inductive ReadbufCount where
  | fill
  | any
  deriving DecidableEq, Repr, Inhabited

/-! ### Configuration -/

/-- The configuration record `CFG` of one engine (R21), written once by `CONSTRUCT`. -/
structure Cfg where
  mode : Mode
  decoder : DecoderKind
  mapback : MapBack
  buffer : BufferKind
  policy : Policy
  initCap : Nat
  wsize : Nat
  blockSize : Nat
  deriving DecidableEq, Repr, Inhabited

/-- The host's arguments of `CONSTRUCT` before they are checked (R341): the enumerations as the numbers
of R21, so that a number "not used" can be given, and refused; `none` where the host leaves an argument
with a default to its default. -/
structure RawCfg where
  mode : Option (BitVec 1)
  decoder : BitVec 3
  mapback : BitVec 1
  buffer : BitVec 3
  policy : BitVec 4
  policyArg : Nat
  initCap : Option Nat
  wsize : Option Nat
  blockSize : Option Nat
  deriving DecidableEq, Repr, Inhabited

/-- The six precomputed capacity sequences `GROWTH_TABLE[p]` (R10, R203, R204). -/
structure GrowthTables where
  paper : List Nat
  golden : List Nat
  natural : List Nat
  paperPrime : List Nat
  goldenPrime : List Nat
  naturalPrime : List Nat
  deriving DecidableEq, Repr, Inhabited

/-- The OPEN parameters of R10 that are not fields of `CFG`. -/
structure Params where
  emptyDistCode : EmptyDistCode
  rep16AtStart : Rep16AtStart
  errDelivery : ErrDelivery
  readbufCount : ReadbufCount
  growth : GrowthTables
  deriving DecidableEq, Repr, Inhabited

/-! ### Decode tables (R42, R43, R155 to R164) -/

/-- `KIND(T)` (R43): the health check's verdict on a code that it lets pass. -/
inductive Kind where
  | complete
  | degenerate
  | empty
  deriving DecidableEq, Repr, Inhabited

/-- `which` of `Build` (R140): the alphabet that a length array belongs to. -/
inductive Which where
  | cl
  | ll
  | d
  deriving DecidableEq, Repr, Inhabited

/-- The sparse integer map of the two trie strategies (R157), in one of its two backings: a list of hash
buckets, or an array of slots indexed by the key. -/
inductive IntMap where
  | hash (buckets : List (List (Nat × Int)))
  | slots (cells : List (Option Int))
  deriving DecidableEq, Repr, Inhabited

/-- The value object of the `GENERIC_MAP` strategy (R158): the next state, or a symbol. -/
inductive GVal where
  | next (state : Nat)
  | sym (symbol : Nat)
  deriving DecidableEq, Repr, Inhabited

/-- The binary tree of the `TREE` strategy (R160); `zero` is child 0 and `one` is child 1. -/
inductive Tree where
  | empty
  | leaf (symbol : Nat)
  | node (zero one : Tree)
  deriving DecidableEq, Repr, Inhabited

/-- The content of a decode table in the representation of the configured strategy (R42). -/
inductive Store where
  | trieStateSymbol (m : IntMap)
  | trieSymbolState (m : IntMap)
  | generic (m : List ((Nat × Bool) × GVal))
  | tree (root : Tree)
  | table (width : Nat) (entries : List (Option Nat × Nat))
  deriving DecidableEq, Repr, Inhabited

/-- A decode table `T` with `KIND(T)` and `MAXBITS(T)` (R43). -/
structure Table where
  kind : Kind
  maxbits : Nat
  store : Store
  deriving DecidableEq, Repr, Inhabited

/-! ### Groups of registers -/

/-- The bit-stream parser (R22 to R24) with the source bound to it.  `input` is the byte sequence `IN`
that the source delivers; `bitbuf` is `BITBUF` as its bits, next stream bit first, so that `BITCNT` is
its length and `BP` is `8*IPOS - BITCNT`. -/
structure Parser where
  input : List Byte
  ipos : Nat
  bitbuf : Bits
  srcEos : Bool
  deriving DecidableEq, Repr, Inhabited

/-- The registers, arrays and tables that a fault leaves unspecified (R412): `SUB`, `BFINAL`, `BTYPE`
(R26, R27), the working registers (R30 to R33), the code-length arrays (R40, R41) and the decode tables
(R42). -/
structure Regs where
  sub : Sub
  bfinal : Bool
  btype : BitVec 2
  len : BitVec 16
  nlen : BitVec 16
  srem : BitVec 16
  hlit : BitVec 5
  hdist : BitVec 5
  hclen : BitVec 4
  clidx : Nat
  lidx : Nat
  prev : BitVec 4
  prevValid : Bool
  sym : BitVec 9
  dsym : BitVec 5
  mlen : BitVec 17
  mdist : BitVec 17
  cll : List (BitVec 3)
  lens : List (BitVec 4)
  ll : List (BitVec 4)
  dl : List (BitVec 4)
  cltab : Option Table
  lltab : Option Table
  dtab : Option Table
  fixlltab : Option Table
  fixdtab : Option Table
  deriving DecidableEq, Repr, Inhabited

/-- The run buffer (R46 to R50, R192, R193).  `out` is `OUT`, and `TOTAL` is its length.  `phys` is the
physical storage `PHYS` as cells in one canonical form; `base` is the hidden base position of the linear
layouts (R192) and the first live position of the block list (R193); `refCap` is the capacity of the
list of block references that the resize policy governs in the block list (R193). -/
structure Buf where
  out : List Byte
  drained : Nat
  rlo : Nat
  cap : Nat
  base : Nat
  refCap : Nat
  phys : List Host.Cell
  rng : Option Nat
  deriving DecidableEq, Repr, Inhabited

/-- A call of the host on the ports of R340. -/
inductive HostCall where
  | construct (cfg : RawCfg) (source : List Byte)
  | read
  | readbuf (n : Nat)
  | close
  deriving DecidableEq, Repr, Inhabited

/-- What a completed host call gives back (R340 to R350): a byte, a count with that many bytes,
end-of-stream, an error kind; `closed` is the return of `CLOSE`, which carries nothing; `constructed`
and `refusedConfig` are the two outcomes of `CONSTRUCT`. -/
inductive Response where
  | byte (b : Byte)
  | count (bytes : List Byte)
  | eos
  | error (e : ErrKind)
  | closed
  | constructed
  | refusedConfig
  deriving DecidableEq, Repr, Inhabited

/-- The host port `OUTP` (R340): the read call in progress with the argument `want` of its `Advance`
(R344), the calls that the host has still to make, and the responses so far, oldest first (R475). -/
structure HostPort where
  call : Option HostCall
  want : Nat
  calls : List HostCall
  responses : List Response
  deriving DecidableEq, Repr, Inhabited

/-- Values that the spec leaves open after a fault (R412, U33) or after `CLOSE` (U34): the type of the
free values that stand in their place. -/
structure Residue where
  bitbuf : Bits
  srcEos : Bool
  reg : Regs
  buf : Buf
  fixedBuilt : Bool
  errPending : Bool
  eosSignalled : Bool
  deriving DecidableEq, Repr, Inhabited

end Sys2Proof
end

