-- ==== Sys2Proof/Machine/Defaults.lean ====
section
/-! DEFINITION. The defaults that the spec states: the formula defaults of the growth tables (R207), the
defaults of the OPEN parameters (R10), the window limits of the two modes, and the configuration of the
reset state. -/

namespace Sys2Proof.Machine

/-! ### Growth tables: the formula defaults of R207 -/

/-- `TABLE_PAPER`: `round(16 * 2^(i/2))`, `i = 0..40` (R207). -/
def paperTable : List Nat :=
  [16, 23, 32, 45, 64, 91, 128, 181, 256, 362, 512, 724, 1024, 1448, 2048, 2896, 4096, 5793,
   8192, 11585, 16384, 23170, 32768, 46341, 65536, 92682, 131072, 185364, 262144, 370728,
   524288, 741455, 1048576, 1482910, 2097152, 2965821, 4194304, 5931642, 8388608, 11863283,
   16777216]

/-- `TABLE_GOLDEN`: `round(16 * 1.6180339887^i)`, `i = 0..30` (R207). -/
def goldenTable : List Nat :=
  [16, 26, 42, 68, 110, 177, 287, 465, 752, 1216, 1968, 3184, 5152, 8336, 13488, 21824, 35312,
   57136, 92448, 149584, 242032, 391616, 633648, 1025264, 1658912, 2684176, 4343088, 7027264,
   11370352, 18397616, 29767968]

/-- `TABLE_NATURAL`: 16, 24, then each entry the sum of the two before it, 30 entries (R207). -/
def naturalTable : List Nat :=
  [16, 24, 40, 64, 104, 168, 272, 440, 712, 1152, 1864, 3016, 4880, 7896, 12776, 20672, 33448,
   54120, 87568, 141688, 229256, 370944, 600200, 971144, 1571344, 2542488, 4113832, 6656320,
   10770152, 17426472]

/-- `TABLE_PAPER_PRIME`: every entry of `TABLE_PAPER` replaced by the smallest prime not less than it,
without duplicates (R207). -/
def paperPrimeTable : List Nat :=
  [17, 23, 37, 47, 67, 97, 131, 181, 257, 367, 521, 727, 1031, 1451, 2053, 2897, 4099, 5801,
   8209, 11587, 16411, 23173, 32771, 46349, 65537, 92683, 131101, 185369, 262147, 370759,
   524309, 741457, 1048583, 1482919, 2097169, 2965847, 4194319, 5931649, 8388617, 11863289,
   16777259]

/-- `TABLE_GOLDEN_PRIME`, made likewise from `TABLE_GOLDEN` (R207). -/
def goldenPrimeTable : List Nat :=
  [17, 29, 43, 71, 113, 179, 293, 467, 757, 1217, 1973, 3187, 5153, 8353, 13499, 21839, 35317,
   57139, 92459, 149603, 242057, 391619, 633649, 1025267, 1658927, 2684177, 4343099, 7027303,
   11370353, 18397619, 29767973]

/-- `TABLE_NATURAL_PRIME`, made likewise from `TABLE_NATURAL` (R207). -/
def naturalPrimeTable : List Nat :=
  [17, 29, 41, 67, 107, 173, 277, 443, 719, 1153, 1867, 3019, 4889, 7901, 12781, 20681, 33457,
   54121, 87583, 141689, 229261, 370949, 600203, 971149, 1571363, 2542511, 4113833, 6656339,
   10770161, 17426473]

/-- The six tables at their formula defaults. -/
def defaultGrowth : GrowthTables :=
  { paper := paperTable, golden := goldenTable, natural := naturalTable,
    paperPrime := paperPrimeTable, goldenPrime := goldenPrimeTable,
    naturalPrime := naturalPrimeTable }

/-! ### Defaults -/

/-- The OPEN parameters at the defaults of R10. -/
def defaultParams : Params :=
  { emptyDistCode := .acceptFaultOnUse, rep16AtStart := .fault, errDelivery := .drainFirst,
    readbufCount := .fill, growth := defaultGrowth }

/-- The largest legal window size of a mode (R10, R21), which is also its default. -/
def maxWsize : Mode → Nat
  | .deflate => 32768
  | .deflate64 => 65536

/-- The configuration of the reset state.  R10 and R21 give the defaults of `MODE`, `INIT_CAP`, `WSIZE`
and `BLOCK_SIZE`; the four strategy fields have none.  DESIGN CHOICE (log entry 2). -/
def defaultCfg : Cfg :=
  { mode := .deflate, decoder := .tree, mapback := .hash, buffer := .cyclic, policy := .pow2Shift,
    initCap := 4096, wsize := 32768, blockSize := 4096 }

end Sys2Proof.Machine
end

