-- ==== Sys2Proof/Machine/Bits.lean ====
section
/-! DEFINITION. The bit-stream parser (R220 to R232): the bit order of a byte, the source port, and the
primitives `SrcByte`, `NeedBits`, `PeekBits`, `DropBits`, `GetBits`, `AlignByte`. -/

namespace Sys2Proof.Machine

/-! ### Bit order (R62 to R64) -/

/-- The bits of a byte in stream order: stream bit `k` is bit `k mod 8` of its byte, so the least
significant bit comes first (R62). -/
def byteBits (b : Byte) : Bits :=
  (List.range 8).map fun i => b.getLsbD i

/-- The bits of the whole input, in stream order (R13). -/
def streamBits (bytes : List Byte) : Bits :=
  bytes.flatMap byteBits

/-- The unsigned number that a field of stream bits is: its first stream bit is bit 0 (R62, R102 a). -/
def bitsToNat : Bits → Nat
  | [] => 0
  | b :: rest => b.toNat + 2 * bitsToNat rest

/-- The `n` stream bits of a field that holds `v`, least significant bit first (R62). -/
def fieldBits : Nat → Nat → Bits
  | 0, _ => []
  | n + 1, v => (v % 2 == 1) :: fieldBits n (v / 2)

/-- The `n` stream bits of a codeword `v`, most significant bit first (R62, R63, R133). -/
def codeBits (n v : Nat) : Bits :=
  (fieldBits n v).reverse

/-- The number that `n` codeword bits are when the first stream bit is the most significant (R63). -/
def codeValue (w : Bits) : Nat :=
  bitsToNat w.reverse

/-- The packing of stream bits into bytes, the last byte padded with 0 bits (R62, R107), in at most
`fuel` bytes. -/
def packWith : Nat → Bits → List Byte
  | 0, _ => []
  | _ + 1, [] => []
  | fuel + 1, w => BitVec.ofNat 8 (bitsToNat (w.take 8)) :: packWith fuel (w.drop 8)

/-- The packing of stream bits into bytes (R62, R107). -/
def packBytes (w : Bits) : List Byte :=
  packWith w.length w

end Sys2Proof.Machine

namespace Sys2Proof

open Sys2Proof.Machine

/-! ### What reading from the parser can answer -/

/-- Why a stream element could not be read other than by an error kind of R400: the model's own stops. -/
inductive Reject where
  /-- The pair (`PHASE`, `SUB`) selects no operation (R120). -/
  | noElement
  /-- The decode table that the element needs is absent (R42). -/
  | tableAbsent
  /-- The decode table is one that `Build` never makes (R140, R153). -/
  | brokenTable
  deriving DecidableEq, Repr, Inhabited

/-- The answer of a read: a value with the parser after it, an error kind raised with the parser at that
point, or a stop of the model. -/
inductive Fetched (α : Type) where
  | ok (a : α) (p : Parser)
  | raised (e : ErrKind) (p : Parser)
  | rejected (r : Reject)
  deriving DecidableEq, Repr

/-- Reading on after a read: what was raised or rejected stays so. -/
def Fetched.bind {α β : Type} (x : Fetched α) (f : α → Parser → Fetched β) : Fetched β :=
  match x with
  | .ok a p => f a p
  | .raised e p => .raised e p
  | .rejected r => .rejected r

/-! ### The parser's registers -/

/-- `BITCNT`, the number of bits fetched and not consumed (R23). -/
def Parser.bitcnt (p : Parser) : Nat :=
  p.bitbuf.length

/-- `BP = 8*IPOS - BITCNT`, the number of stream bits consumed (R22, R23). -/
def Parser.bp (p : Parser) : Nat :=
  8 * p.ipos - p.bitcnt

/-- A parser at the first bit of a source that delivers `bytes` (R55). -/
def Parser.start (bytes : List Byte) : Parser :=
  { input := bytes, ipos := 0, bitbuf := [], srcEos := false }

/-- `SrcByte()` (R221): the next byte of the source, or none at its end, which sets `SRC_EOS`. -/
def Parser.srcByte (p : Parser) : Option Byte × Parser :=
  if p.srcEos then (none, p)
  else
    match p.input[p.ipos]? with
    | none => (none, { p with srcEos := true })
    | some b => (some b, p)

/-- One fetch of `NeedBits` (R223): the byte goes above the bits at hand, `IPOS` counts it. -/
def Parser.fetchByte (p : Parser) : Fetched Unit :=
  match p.srcByte with
  | (none, p') => .raised .unexpectedEndOfStream p'
  | (some b, p') => .ok () { p' with bitbuf := p'.bitbuf ++ byteBits b, ipos := p'.ipos + 1 }

/-- The loop of `NeedBits` (R223), with a bound on its turns. -/
def Parser.needLoop : Nat → Nat → Parser → Fetched Unit
  | 0, _, p => .ok () p
  | fuel + 1, n, p =>
    if n ≤ p.bitcnt then .ok () p
    else (p.fetchByte).bind fun _ p' => Parser.needLoop fuel n p'

/-- `NeedBits(n)` (R223): each turn brings 8 bits, so `n` turns are enough. -/
def Parser.needBits (n : Nat) (p : Parser) : Fetched Unit :=
  Parser.needLoop n n p

/-- `PeekBits(n)` (R224): the next `n` bits as a number, the first stream bit in bit 0. -/
def Parser.peekBits (n : Nat) (p : Parser) : Nat :=
  bitsToNat (p.bitbuf.take n)

/-- `DropBits(n)` (R225). -/
def Parser.dropBits (n : Nat) (p : Parser) : Parser :=
  { p with bitbuf := p.bitbuf.drop n }

/-- `GetBits(n)` (R226). -/
def Parser.getBits (n : Nat) (p : Parser) : Fetched Nat :=
  (p.needBits n).bind fun _ p' => .ok (p'.peekBits n) (p'.dropBits n)

/-- `GetBits(1)` as a bit, for the bit-by-bit decoders (R150). -/
def Parser.getBit (p : Parser) : Fetched Bool :=
  (p.getBits 1).bind fun v p' => .ok (v == 1) p'

/-- `AlignByte()` (R227): drops `BITCNT mod 8` bits. -/
def Parser.alignByte (p : Parser) : Parser :=
  p.dropBits (p.bitcnt % 8)

end Sys2Proof
end

