-- ==== Sys2Proof/Machine/Huffman.lean ====
section
/-! DEFINITION. The canonical Huffman code builder (R130 to R148): `canonicalConstruct`, `checkHealth` and
the two fixed alphabets. -/

namespace Sys2Proof.Machine

/-- `MAXBITS_LL` and `MAXBITS_D` (R10, R130). -/
def maxBitsData : Nat := 15

/-- `MAXBITS_CL` (R10, R130). -/
def maxBitsCl : Nat := 7

/-- `count[b]` of R132: how many symbols have length `b`, with `count[0]` set to 0. -/
def lengthCount (lens : List Nat) (b : Nat) : Nat :=
  if b = 0 then 0 else lens.countP (· == b)

/-- `code` of R132 after the turn for length `b`: the first codeword of length `b`. -/
def firstCode (lens : List Nat) : Nat → Nat
  | 0 => 0
  | b + 1 => (firstCode lens b + lengthCount lens b) * 2

/-- The longest code length of an array, 0 if none (R43, R140). -/
def maxLen (lens : List Nat) : Nat :=
  lens.foldl max 0

/-- The array `next` of R132 before the assignment, for lengths 0 to `m`. -/
def firstCodes (lens : List Nat) (m : Nat) : List Nat :=
  (List.range (m + 1)).map (firstCode lens)

/-- The assignment loop of R132: symbols in increasing order take the next codeword of their length. -/
def assignCodes : List Nat → List Nat → List (Option Nat)
  | [], _ => []
  | 0 :: rest, next => none :: assignCodes rest next
  | len :: rest, next =>
    let c := next.getD len 0
    some c :: assignCodes rest (next.set len (c + 1))

/-- `canonicalConstruct(lengths)` (R132): the codeword of each symbol as a number, none for an unused
symbol. -/
def canonicalConstruct (lens : List Nat) : List (Option Nat) :=
  assignCodes lens (firstCodes lens (maxLen lens))

/-- The codewords as bit strings, first stream bit on the left (R133). -/
def codewordStrings (lens : List Nat) : List (Option Bits) :=
  (lens.zip (canonicalConstruct lens)).map fun (len, cw) => cw.map (codeBits len)

/-- A used symbol with its length and codeword, the input of a strategy's `build` (R150). -/
structure Triple where
  symbol : Nat
  len : Nat
  cw : Nat
  deriving DecidableEq, Repr, Inhabited

/-- The triples of the used symbols, in increasing symbol order (R140, R150). -/
def codeTriples (lens : List Nat) : List Triple :=
  ((lens.zip (canonicalConstruct lens)).zipIdx).filterMap fun ((len, cw), s) =>
    cw.map fun c => { symbol := s, len := len, cw := c }

/-- The Kraft sum `K` of R138 for a maximum length. -/
def kraftSum (lens : List Nat) (maxl : Nat) : Nat :=
  (lens.map fun len => if len = 0 then 0 else 2 ^ (maxl - len)).sum

/-- `used` of R138: how many symbols have a code. -/
def usedCount (lens : List Nat) : Nat :=
  lens.countP (· != 0)

/-- `checkHealth` (R138) with `EmptyCase` (R139): the kind of a code that passes, none where it raises
`IncompleteCodeError`. -/
def checkHealth (empty : EmptyDistCode) (which : Which) (lens : List Nat) (maxl : Nat) : Option Kind :=
  if usedCount lens = 0 then
    match which, empty with
    | .d, .acceptFaultOnUse => some .empty
    | .d, .faultAtBuild => none
    | .ll, _ => none
    | .cl, _ => none
  else if kraftSum lens maxl = 2 ^ maxl then some .complete
  else if usedCount lens = 1 ∧ lens.contains 1 then some .degenerate
  else none

/-- `fixedLiteralLengthAlphabet()` (R144). -/
def fixedLiteralLengthAlphabet : List Nat :=
  List.replicate 144 8 ++ List.replicate 112 9 ++ List.replicate 24 7 ++ List.replicate 8 8

/-- `fixedDistanceAlphabet()` (R145). -/
def fixedDistanceAlphabet : List Nat :=
  List.replicate 32 5

end Sys2Proof.Machine
end

