-- ==== Sys2Proof/Machine/Tables.lean ====
section
/-! DEFINITION. The decode tables (R150 to R166): `build` and `decode` of each strategy, and `Build` and
`Decode`, which choose by the configured strategy. -/

namespace Sys2Proof.Machine

/-! ### The sparse integer map (R157) -/

/-- The number of hash buckets of the `HASH` backing; invisible (R157).  Log entry 9. -/
def hashBuckets : Nat := 16

/-- An empty map in the configured backing (R157). -/
def emptyMap : MapBack → IntMap
  | .hash => .hash (List.replicate hashBuckets [])
  | .slotArray => .slots []

/-- `get` in one list of key and value pairs. -/
def assocGet {κ ν : Type} [DecidableEq κ] : List (κ × ν) → κ → Option ν
  | [], _ => none
  | (k, v) :: rest, key => if k = key then some v else assocGet rest key

/-- `put` in one list of key and value pairs. -/
def assocPut {κ ν : Type} [DecidableEq κ] : List (κ × ν) → κ → ν → List (κ × ν)
  | [], key, val => [(key, val)]
  | (k, v) :: rest, key, val => if k = key then (key, val) :: rest else (k, v) :: assocPut rest key val

/-- `get(k)` (R157): absent for a key never put. -/
def mapGet (m : IntMap) (key : Nat) : Option Int :=
  match m with
  | .hash buckets => assocGet (buckets.getD (key % hashBuckets) []) key
  | .slots cells => (cells[key]?).getD none

/-- `put(k, v)` (R157). -/
def mapPut (m : IntMap) (key : Nat) (val : Int) : IntMap :=
  match m with
  | .hash buckets =>
    .hash (buckets.set (key % hashBuckets) (assocPut (buckets.getD (key % hashBuckets) []) key val))
  | .slots cells => .slots ((cells ++ List.replicate (key + 1 - cells.length) none).set key (some val))

/-! ### Prefix trie over an integer map (R155, R156) -/

/-- `NSTATE_MAX` of R156. -/
def nstateMax : Nat := 512

/-- `key(st, b) = 2*st + b` of `TRIE_STATE_SYMBOL` (R156). -/
def keyStateSymbol (st : Nat) (b : Bool) : Nat :=
  2 * st + b.toNat

/-- `key(st, b) = b*NSTATE_MAX + st` of `TRIE_SYMBOL_STATE` (R156). -/
def keySymbolState (st : Nat) (b : Bool) : Nat :=
  b.toNat * nstateMax + st

/-- The inner loop of the trie's `build` (R155): one codeword from state `st`; the pair is the map and
`nstates`.  A leaf is a negative value that carries the symbol. -/
def trieInsert (key : Nat → Bool → Nat) (symbol : Nat) : Bits → Nat → IntMap × Nat → IntMap × Nat
  | [], _, acc => acc
  | [b], st, (m, n) => (mapPut m (key st b) (-(symbol + 1 : Int)), n)
  | b :: b' :: rest, st, (m, n) =>
    match mapGet m (key st b) with
    | some v => trieInsert key symbol (b' :: rest) v.toNat (m, n)
    | none => trieInsert key symbol (b' :: rest) n (mapPut m (key st b) n, n + 1)

/-- `build` of the trie strategies (R155): state 0 is the root. -/
def trieBuild (key : Nat → Bool → Nat) (back : MapBack) (triples : List Triple) : IntMap :=
  (triples.foldl (fun acc t => trieInsert key t.symbol (codeBits t.len t.cw) 0 acc)
    (emptyMap back, 1)).1

/-- A transition of the automaton of R155 as a value object: a negative entry is a leaf. -/
def trieValue (v : Int) : GVal :=
  if v < 0 then .sym (-v - 1).toNat else .next v.toNat

/-- `decode` of R155 over a transition function, with a bound on its turns: `MAXBITS(T)` turns are enough
for every table that `Build` makes (R150). -/
def trieWalk (trans : Nat → Bool → Option GVal) : Nat → Nat → Parser → Fetched Nat
  | 0, _, _ => .rejected .brokenTable
  | fuel + 1, st, p =>
    p.getBit.bind fun b p' =>
      match trans st b with
      | none => .raised .incompleteCode p'
      | some (.sym s) => .ok s p'
      | some (.next st') => trieWalk trans fuel st' p'

/-! ### Generic map (R158) -/

/-- The inner loop of `build` for the `GENERIC_MAP` strategy: R155 with the pair itself as the key. -/
def genericInsert (symbol : Nat) :
    Bits → Nat → List ((Nat × Bool) × GVal) × Nat → List ((Nat × Bool) × GVal) × Nat
  | [], _, acc => acc
  | [b], st, (m, n) => (assocPut m (st, b) (.sym symbol), n)
  | b :: b' :: rest, st, (m, n) =>
    match assocGet m (st, b) with
    | some (.next st') => genericInsert symbol (b' :: rest) st' (m, n)
    | some (.sym _) => genericInsert symbol (b' :: rest) 0 (m, n)
    | none => genericInsert symbol (b' :: rest) n (assocPut m (st, b) (.next n), n + 1)

/-- `build` of the `GENERIC_MAP` strategy (R158). -/
def genericBuild (triples : List Triple) : List ((Nat × Bool) × GVal) :=
  (triples.foldl (fun acc t => genericInsert t.symbol (codeBits t.len t.cw) 0 acc) ([], 1)).1

/-! ### Binary tree (R160) -/

/-- One codeword of `build` (R160). -/
def treeInsert (symbol : Nat) : Bits → Tree → Tree
  | [], _ => .leaf symbol
  | false :: rest, .node z o => .node (treeInsert symbol rest z) o
  | true :: rest, .node z o => .node z (treeInsert symbol rest o)
  | false :: rest, _ => .node (treeInsert symbol rest .empty) .empty
  | true :: rest, _ => .node .empty (treeInsert symbol rest .empty)

/-- `build` of the `TREE` strategy (R160): the root is a node from the start. -/
def treeBuild (triples : List Triple) : Tree :=
  triples.foldl (fun t x => treeInsert x.symbol (codeBits x.len x.cw) t) (.node .empty .empty)

/-- `decode` of R160: left or right per bit. -/
def treeWalk : Tree → Parser → Fetched Nat
  | .empty, p => .raised .incompleteCode p
  | .leaf s, p => .ok s p
  | .node z o, p => p.getBit.bind fun b p' => if b then treeWalk o p' else treeWalk z p'

/-! ### Lookup table (R163, R164) -/

/-- The entries that one codeword fills (R163): `E[r + (hi << len)]` for every `hi`, `r` being the
codeword reversed. -/
def tableFill (w : Nat) (entries : List (Option Nat × Nat)) (t : Triple) : List (Option Nat × Nat) :=
  let r := bitsToNat (codeBits t.len t.cw)
  (List.range (2 ^ (w - t.len))).foldl (fun e hi => e.set (r + hi * 2 ^ t.len) (some t.symbol, t.len))
    entries

/-- `build` of the `TABLE` strategy (R163), `w` being the longest length. -/
def tableBuild (w : Nat) (triples : List Triple) : List (Option Nat × Nat) :=
  triples.foldl (tableFill w) (List.replicate (2 ^ w) (none, 0))

/-- The loop of R164, with a bound on its turns: each turn that goes on fetches one byte. -/
def tableLoop (w : Nat) (entries : List (Option Nat × Nat)) : Nat → Parser → Fetched Nat
  | 0, _ => .rejected .brokenTable
  | fuel + 1, p =>
    let i := p.peekBits (min p.bitcnt w)
    match entries[i]? with
    | none => .rejected .brokenTable
    | some (sym, nbits) =>
      if nbits ≠ 0 ∧ nbits ≤ p.bitcnt then
        match sym with
        | some s => .ok s (p.dropBits nbits)
        | none => .rejected .brokenTable
      else if nbits = 0 ∧ w ≤ p.bitcnt then
        .raised .incompleteCode (if w = 1 then p.dropBits 1 else p)
      else p.fetchByte.bind fun _ p' => tableLoop w entries fuel p'

/-- `decode` of the `TABLE` strategy (R164). -/
def tableDecode (w : Nat) (entries : List (Option Nat × Nat)) (p : Parser) : Fetched Nat :=
  if w = 0 then .raised .incompleteCode p else tableLoop w entries (w + 1) p

/-! ### `Build` and `Decode` -/

/-- `strategy.build` (R140): the representation of the configured strategy. -/
def buildStore (cfg : Cfg) (lens : List Nat) : Store :=
  match cfg.decoder with
  | .trieStateSymbol => .trieStateSymbol (trieBuild keyStateSymbol cfg.mapback (codeTriples lens))
  | .trieSymbolState => .trieSymbolState (trieBuild keySymbolState cfg.mapback (codeTriples lens))
  | .genericMap => .generic (genericBuild (codeTriples lens))
  | .tree => .tree (treeBuild (codeTriples lens))
  | .table => .table (maxLen lens) (tableBuild (maxLen lens) (codeTriples lens))

/-- `Build(lengths, MAXL, which)` (R140): the health check comes first; none where it raises
`IncompleteCodeError`. -/
def buildTable (cfg : Cfg) (params : Params) (which : Which) (lens : List Nat) (maxl : Nat) :
    Option Table :=
  match checkHealth params.emptyDistCode which lens maxl with
  | none => none
  | some k => some { kind := k, maxbits := maxLen lens, store := buildStore cfg lens }

/-- `decode` of the strategy that a table's content is in (R155 to R164). -/
def storeDecode (maxbits : Nat) (store : Store) (p : Parser) : Fetched Nat :=
  match store with
  | .trieStateSymbol m =>
    trieWalk (fun st b => (mapGet m (keyStateSymbol st b)).map trieValue) maxbits 0 p
  | .trieSymbolState m =>
    trieWalk (fun st b => (mapGet m (keySymbolState st b)).map trieValue) maxbits 0 p
  | .generic m => trieWalk (fun st b => assocGet m (st, b)) maxbits 0 p
  | .tree root => treeWalk root p
  | .table w entries => tableDecode w entries p

/-- `Decode(T)` (R150): with an empty code it raises before any bit is consumed (R152). -/
def decodeSym (t : Table) (p : Parser) : Fetched Nat :=
  match t.kind with
  | .empty => .raised .incompleteCode p
  | .complete => storeDecode t.maxbits t.store p
  | .degenerate => storeDecode t.maxbits t.store p

/-- The abstract `Decode` of R150 over the set of codewords, with a bound on its turns: the bits read so
far are `w`, and the loop ends when they are a codeword or begin none. -/
def contractLoop (codes : List (Nat × Bits)) : Nat → Bits → Parser → Fetched Nat
  | 0, _, _ => .rejected .brokenTable
  | fuel + 1, w, p =>
    p.getBit.bind fun b p' =>
      match codes.find? (fun c => c.2 == w ++ [b]) with
      | some c => .ok c.1 p'
      | none =>
        if codes.any (fun c => (w ++ [b]).isPrefixOf c.2) then contractLoop codes fuel (w ++ [b]) p'
        else .raised .incompleteCode p'

/-- The common contract of R150 for a code-length array: the reference that every strategy equals
(R153). -/
def contractDecode (lens : List Nat) (p : Parser) : Fetched Nat :=
  if usedCount lens = 0 then .raised .incompleteCode p
  else
    contractLoop ((codeTriples lens).map fun t => (t.symbol, codeBits t.len t.cw)) (maxLen lens) [] p

end Sys2Proof.Machine
end

