-- ==== Sys2Proof/Machine/Operands.lean ====
section
/-! DEFINITION. Operand assembly (R102): the length and distance tables (R98 to R100), the counts of a
dynamic header (R94), the order of the code-length-code lengths (R95) and the repeat counts (R96). -/

namespace Sys2Proof.Machine

/-- The length table of R98 for symbols 257 to 284: (extra bits, `LBASE`). -/
def lengthTable : List (Nat × Nat) :=
  [(0, 3), (0, 4), (0, 5), (0, 6), (0, 7), (0, 8), (0, 9), (0, 10), (1, 11), (1, 13), (1, 15),
   (1, 17), (2, 19), (2, 23), (2, 27), (2, 31), (3, 35), (3, 43), (3, 51), (3, 59), (4, 67),
   (4, 83), (4, 99), (4, 115), (5, 131), (5, 163), (5, 195), (5, 227)]

/-- The distance table of R99 for symbols 0 to 29: (extra bits, `DBASE`). -/
def distTable : List (Nat × Nat) :=
  [(0, 1), (0, 2), (0, 3), (0, 4), (1, 5), (1, 7), (2, 9), (2, 13), (3, 17), (3, 25), (4, 33),
   (4, 49), (5, 65), (5, 97), (6, 129), (6, 193), (7, 257), (7, 385), (8, 513), (8, 769),
   (9, 1025), (9, 1537), (10, 2049), (10, 3073), (11, 4097), (11, 6145), (12, 8193), (12, 12289),
   (13, 16385), (13, 24577)]

/-- The row of a length symbol in a mode: (extra bits, base).  Symbol 285 is the fixed length 258 in
`DEFLATE` mode (R98, R306) and has 16 extra bits and base 3 in `DEFLATE64` mode (R100, R307).  No row for
a symbol that is no length symbol. -/
def lengthRow (mode : Mode) (s : Nat) : Option (Nat × Nat) :=
  if s < 257 then none
  else if s = 285 then
    match mode with
    | .deflate => some (0, 258)
    | .deflate64 => some (16, 3)
  else lengthTable[s - 257]?

/-- The row of a distance symbol in a mode: (extra bits, base).  Symbols 30 and 31 have a row in
`DEFLATE64` mode only (R100, R311, R312). -/
def distRow (mode : Mode) (c : Nat) : Option (Nat × Nat) :=
  match mode, c with
  | .deflate64, 30 => some (14, 32769)
  | .deflate64, 31 => some (14, 49153)
  | _, c => distTable[c]?

/-- `LEXTRA[s]` (R98, R100); 0 for a symbol without a row. -/
def lextra (mode : Mode) (s : Nat) : Nat :=
  match lengthRow mode s with
  | some (e, _) => e
  | none => 0

/-- `LBASE[s]` (R98, R100); 0 for a symbol without a row. -/
def lbase (mode : Mode) (s : Nat) : Nat :=
  match lengthRow mode s with
  | some (_, b) => b
  | none => 0

/-- `DEXTRA[c]` (R99, R100); 0 for a symbol without a row. -/
def dextra (mode : Mode) (c : Nat) : Nat :=
  match distRow mode c with
  | some (e, _) => e
  | none => 0

/-- `MLEN` of a length symbol and its extra field: `LBASE[s] + extra` (R102 d). -/
def lengthOf (mode : Mode) (s x : Nat) : Nat :=
  lbase mode s + x

/-- `MDIST` of a distance symbol and its extra field: `DBASE[c] + extra` (R102 d); none for a symbol
that is out of range in the mode (R311). -/
def distanceOf (mode : Mode) (c x : Nat) : Option Nat :=
  match distRow mode c with
  | some (_, b) => some (b + x)
  | none => none

/-- `CLORDER` (R95): the order in which the code-length-code lengths are sent. -/
def clOrder : List Nat :=
  [16, 17, 18, 0, 8, 7, 9, 6, 10, 5, 11, 4, 12, 3, 13, 2, 14, 1, 15]

/-- `NLIT = HLIT + 257` (R94). -/
def nlit (hlit : BitVec 5) : Nat :=
  hlit.toNat + 257

/-- `NDIST = HDIST + 1` (R94). -/
def ndist (hdist : BitVec 5) : Nat :=
  hdist.toNat + 1

/-- `NCL = HCLEN + 4` (R94). -/
def ncl (hclen : BitVec 4) : Nat :=
  hclen.toNat + 4

/-- The repeat count of `CL.REP16`, `3 + GetBits(2)` (R96, R278). -/
def rep16Count (x : BitVec 2) : Nat :=
  3 + x.toNat

/-- The repeat count of `CL.ZREP17`, `3 + GetBits(3)` (R96, R279). -/
def zrep17Count (x : BitVec 3) : Nat :=
  3 + x.toNat

/-- The repeat count of `CL.ZREP18`, `11 + GetBits(7)` (R96, R280). -/
def zrep18Count (x : BitVec 7) : Nat :=
  11 + x.toNat

end Sys2Proof.Machine
end

