-- ==== Sys2Proof/Config.lean ====
section
/-! DEFINITION. The free values: what the spec leaves open and no field of the state fixes.  Each is a
constant without a body.  What an implementation fixes stands in the state: `CFG`, written by
`CONSTRUCT` (R21), and the OPEN parameters of R10 (`Params`); their defaults are in
Sys2Proof/Machine/Defaults.lean. -/

namespace Sys2Proof

/-! ### Free values

Each is an uninterpreted constant: nothing can be proved of its value. -/

/-- The values that a fault (R412) or `CLOSE` (U34) leaves in the items that the spec does not specify,
one for each use; the argument is the free-value counter of the state.  Log entry 3. -/
opaque Config.residue : Nat → Residue

/-- A free natural number for each use: the source position after a fault within the bound of R412, the
lower end `RLO` of the retained region within the bounds of R187, the release of blocks (R193), and the
count of a buffered read under `READBUF_COUNT = any` (R343).  Log entries 3, 4 and 7. -/
opaque Config.freeNat : Nat → Nat

/-- How far above `required` the `RANDOM` policy draws, from its generator state and its two arguments
(R209).  Log entry 5. -/
opaque Config.rngDraw : Nat → Nat → Nat → Nat

/-- The next state of the `RANDOM` policy's generator (R50, R209).  Log entry 5. -/
opaque Config.rngNext : Nat → Nat

end Sys2Proof
end

