-- ==== Sys2Proof/Syntax.lean ====
section
/-! DEFINITION. The instruction set: one constructor for every row of the operation table (R120, R121).

An instruction is one element of the compressed stream, or one host call.  Its arguments are the operand
fields of the element as they stand in the stream (R102), not the values computed from them. -/

namespace Sys2Proof

/-- The distance part of a match (R99): the distance symbol and its extra field, which is as wide as the
symbol's row says; where the symbol has no extra field, `extra` is 0. -/
structure DistField where
  sym : BitVec 5
  extra : BitVec 14
  deriving DecidableEq, Repr, Inhabited

/-- The instructions, in the order of the operation table. -/
inductive Instr where
  /-- `BHDR` (R241): the block header in its general form; `type` is `BTYPE` (R91). -/
  | bhdr (final : Bool) (type : BitVec 2)
  /-- `BLK.STORED` (R242): the header with `BTYPE = 00`. -/
  | blkStored (final : Bool)
  /-- `BLK.FIXED` (R243): the header with `BTYPE = 01`. -/
  | blkFixed (final : Bool)
  /-- `BLK.DYNAMIC` (R244): the header with `BTYPE = 10`. -/
  | blkDynamic (final : Bool)
  /-- `BLK.RESERVED` (R246): the header with `BTYPE = 11`. -/
  | blkReserved (final : Bool)
  /-- `STORED.HDR` (R256): `LEN` and `NLEN`, after the pad to the byte boundary (R93). -/
  | storedHdr (len : BitVec 16) (nlen : BitVec 16)
  /-- `STORED.BYTE` (R258): one stored byte. -/
  | storedByte (v : Byte)
  /-- `DYN.COUNTS` (R271): the three counts (R94). -/
  | dynCounts (hlit : BitVec 5) (hdist : BitVec 5) (hclen : BitVec 4)
  /-- `DYN.CLLEN` (R273): one 3-bit code length (R95). -/
  | dynCllen (len : BitVec 3)
  /-- `DYN.CLBUILD` (R275): reads no bits. -/
  | dynClbuild
  /-- `CL.LEN.<v>` (R277): code-length symbols 0 to 15, without extra bits (R96). -/
  | clLen0
  | clLen1
  | clLen2
  | clLen3
  | clLen4
  | clLen5
  | clLen6
  | clLen7
  | clLen8
  | clLen9
  | clLen10
  | clLen11
  | clLen12
  | clLen13
  | clLen14
  | clLen15
  /-- `CL.REP16` (R278): repeat the previous length; `x` is the 2-bit extra field. -/
  | clRep16 (x : BitVec 2)
  /-- `CL.ZREP17` (R279): zero lengths; `x` is the 3-bit extra field. -/
  | clZrep17 (x : BitVec 3)
  /-- `CL.ZREP18` (R280): zero lengths; `x` is the 7-bit extra field. -/
  | clZrep18 (x : BitVec 7)
  /-- `DYN.BUILD` (R284): reads no bits. -/
  | dynBuild
  /-- `LIT` (R302): symbols 0 to 255; `b` is `SYM[7:0]`. -/
  | lit (b : Byte)
  /-- `EOB` (R303): symbol 256. -/
  | eob
  /-- `MATCH.L<s>` (R304, R305): length symbol `s`, its extra field `x` where it has one (R98),
  and the distance part `d` (R99). -/
  | matchL257 (d : DistField)
  | matchL258 (d : DistField)
  | matchL259 (d : DistField)
  | matchL260 (d : DistField)
  | matchL261 (d : DistField)
  | matchL262 (d : DistField)
  | matchL263 (d : DistField)
  | matchL264 (d : DistField)
  | matchL265 (x : BitVec 1) (d : DistField)
  | matchL266 (x : BitVec 1) (d : DistField)
  | matchL267 (x : BitVec 1) (d : DistField)
  | matchL268 (x : BitVec 1) (d : DistField)
  | matchL269 (x : BitVec 2) (d : DistField)
  | matchL270 (x : BitVec 2) (d : DistField)
  | matchL271 (x : BitVec 2) (d : DistField)
  | matchL272 (x : BitVec 2) (d : DistField)
  | matchL273 (x : BitVec 3) (d : DistField)
  | matchL274 (x : BitVec 3) (d : DistField)
  | matchL275 (x : BitVec 3) (d : DistField)
  | matchL276 (x : BitVec 3) (d : DistField)
  | matchL277 (x : BitVec 4) (d : DistField)
  | matchL278 (x : BitVec 4) (d : DistField)
  | matchL279 (x : BitVec 4) (d : DistField)
  | matchL280 (x : BitVec 4) (d : DistField)
  | matchL281 (x : BitVec 5) (d : DistField)
  | matchL282 (x : BitVec 5) (d : DistField)
  | matchL283 (x : BitVec 5) (d : DistField)
  | matchL284 (x : BitVec 5) (d : DistField)
  /-- `MATCH.L285` (R306): length symbol 285 in `DEFLATE` mode. -/
  | matchL285 (d : DistField)
  /-- `MATCH.L285.D64` (R307): length symbol 285 in `DEFLATE64` mode, with its 16-bit extra field.
  -/
  | matchL285D64 (x : BitVec 16) (d : DistField)
  /-- `LL.INVALID` (R308): symbol `286 + n`. -/
  | llInvalid (n : BitVec 1)
  /-- `DIST.<c>` (R310): the distance part of a match, symbol `c` with its extra field `x` where
  it has one (R99). -/
  | dist0
  | dist1
  | dist2
  | dist3
  | dist4 (x : BitVec 1)
  | dist5 (x : BitVec 1)
  | dist6 (x : BitVec 2)
  | dist7 (x : BitVec 2)
  | dist8 (x : BitVec 3)
  | dist9 (x : BitVec 3)
  | dist10 (x : BitVec 4)
  | dist11 (x : BitVec 4)
  | dist12 (x : BitVec 5)
  | dist13 (x : BitVec 5)
  | dist14 (x : BitVec 6)
  | dist15 (x : BitVec 6)
  | dist16 (x : BitVec 7)
  | dist17 (x : BitVec 7)
  | dist18 (x : BitVec 8)
  | dist19 (x : BitVec 8)
  | dist20 (x : BitVec 9)
  | dist21 (x : BitVec 9)
  | dist22 (x : BitVec 10)
  | dist23 (x : BitVec 10)
  | dist24 (x : BitVec 11)
  | dist25 (x : BitVec 11)
  | dist26 (x : BitVec 12)
  | dist27 (x : BitVec 12)
  | dist28 (x : BitVec 13)
  | dist29 (x : BitVec 13)
  /-- `DIST.INVALID` (R311): distance symbol `30 + n` in `DEFLATE` mode. -/
  | distInvalid (n : BitVec 1)
  /-- `DIST.30.D64`, `DIST.31.D64` (R312): distance symbols 30 and 31 in `DEFLATE64` mode. -/
  | dist30D64 (x : BitVec 14)
  | dist31D64 (x : BitVec 14)
  /-- `FIXED_LL.0-143` (R101): the fixed codeword `0x30 + b`, 8 bits, of literal `b`. -/
  | fixedLl0To143 (b : Byte)
  /-- `FIXED_LL.144-255` (R101): the fixed codeword `0x190 + b - 144`, 9 bits, of literal `b`. -/
  | fixedLl144To255 (b : Byte)
  /-- `FIXED_LL.256-279` (R101): the fixed codeword `n`, 7 bits, of symbol `256 + n`, with what
  follows it in a match (R98, R99). -/
  | fixedLl256To279 (n : BitVec 5) (x : BitVec 4) (d : DistField)
  /-- `FIXED_LL.280-287` (R101): the fixed codeword `0xC0 + n`, 8 bits, of symbol `280 + n`, with
  what follows it in a match. -/
  | fixedLl280To287 (n : BitVec 3) (x : BitVec 16) (d : DistField)
  /-- `FIXED_D.0-31` (R101): the 5-bit fixed codeword of a distance symbol, with its extra field.
  -/
  | fixedD0To31 (d : DistField)
  /-- `CONSTRUCT(cfg, source)` (R341). -/
  | construct (cfg : RawCfg) (source : List Byte)
  /-- `READ()` (R342). -/
  | read
  /-- `READBUF(n)` (R343). -/
  | readbuf (n : Nat)
  /-- `CLOSE()` (R350). -/
  | close
  deriving DecidableEq, Repr, Inhabited

end Sys2Proof
end

