-- ==== Sys2Proof/WellFormed.lean ====
section
/-! DEFINITION. Which instructions are well formed: every operand field within the range its row gives it
(R96 to R101), and which rows exist in which mode (R100, R106). -/

namespace Sys2Proof

open Sys2Proof.Machine

/-- A distance field holds as many extra bits as its symbol's row has in the mode (R99, R100); a symbol
that is out of range in the mode has none (R311). -/
def DistField.wf (mode : Mode) (d : DistField) : Bool :=
  decide (d.extra.toNat < 2 ^ dextra mode d.sym.toNat)

/-- An instruction is well formed in a mode when every field of it has a value that the row's format can
carry and the row exists in that mode.  Rows whose fields can carry every value are well formed. -/
def Instr.wf (mode : Mode) : Instr → Bool
  | .bhdr _ _ => true
  | .blkStored _ => true
  | .blkFixed _ => true
  | .blkDynamic _ => true
  | .blkReserved _ => true
  | .storedHdr _ _ => true
  | .storedByte _ => true
  | .dynCounts _ _ _ => true
  | .dynCllen _ => true
  | .dynClbuild => true
  | .clLen0 => true
  | .clLen1 => true
  | .clLen2 => true
  | .clLen3 => true
  | .clLen4 => true
  | .clLen5 => true
  | .clLen6 => true
  | .clLen7 => true
  | .clLen8 => true
  | .clLen9 => true
  | .clLen10 => true
  | .clLen11 => true
  | .clLen12 => true
  | .clLen13 => true
  | .clLen14 => true
  | .clLen15 => true
  | .clRep16 _ => true
  | .clZrep17 _ => true
  | .clZrep18 _ => true
  | .dynBuild => true
  | .lit _ => true
  | .eob => true
  | .matchL257 d => d.wf mode
  | .matchL258 d => d.wf mode
  | .matchL259 d => d.wf mode
  | .matchL260 d => d.wf mode
  | .matchL261 d => d.wf mode
  | .matchL262 d => d.wf mode
  | .matchL263 d => d.wf mode
  | .matchL264 d => d.wf mode
  | .matchL265 _ d => d.wf mode
  | .matchL266 _ d => d.wf mode
  | .matchL267 _ d => d.wf mode
  | .matchL268 _ d => d.wf mode
  | .matchL269 _ d => d.wf mode
  | .matchL270 _ d => d.wf mode
  | .matchL271 _ d => d.wf mode
  | .matchL272 _ d => d.wf mode
  | .matchL273 _ d => d.wf mode
  | .matchL274 _ d => d.wf mode
  | .matchL275 _ d => d.wf mode
  | .matchL276 _ d => d.wf mode
  | .matchL277 _ d => d.wf mode
  | .matchL278 _ d => d.wf mode
  | .matchL279 _ d => d.wf mode
  | .matchL280 _ d => d.wf mode
  | .matchL281 _ d => d.wf mode
  | .matchL282 _ d => d.wf mode
  | .matchL283 _ d => d.wf mode
  | .matchL284 _ d => d.wf mode
  | .matchL285 d => mode == .deflate && d.wf mode
  | .matchL285D64 _ d => mode == .deflate64 && d.wf mode
  | .llInvalid _ => true
  | .dist0 => true
  | .dist1 => true
  | .dist2 => true
  | .dist3 => true
  | .dist4 _ => true
  | .dist5 _ => true
  | .dist6 _ => true
  | .dist7 _ => true
  | .dist8 _ => true
  | .dist9 _ => true
  | .dist10 _ => true
  | .dist11 _ => true
  | .dist12 _ => true
  | .dist13 _ => true
  | .dist14 _ => true
  | .dist15 _ => true
  | .dist16 _ => true
  | .dist17 _ => true
  | .dist18 _ => true
  | .dist19 _ => true
  | .dist20 _ => true
  | .dist21 _ => true
  | .dist22 _ => true
  | .dist23 _ => true
  | .dist24 _ => true
  | .dist25 _ => true
  | .dist26 _ => true
  | .dist27 _ => true
  | .dist28 _ => true
  | .dist29 _ => true
  | .distInvalid _ => mode == .deflate
  | .dist30D64 _ => mode == .deflate64
  | .dist31D64 _ => mode == .deflate64
  | .fixedLl0To143 b => decide (b.toNat < 144)
  | .fixedLl144To255 b => decide (144 ≤ b.toNat)
  | .fixedLl256To279 n x d => decide (n.toNat < 24) && decide (x.toNat < 2 ^ lextra mode (256 + n.toNat)) &&
      (if n = 0 then d == { sym := 0, extra := 0 } else d.wf mode)
  | .fixedLl280To287 n x d => decide (x.toNat < 2 ^ lextra mode (280 + n.toNat)) &&
      (if 6 ≤ n.toNat then d == { sym := 0, extra := 0 } else d.wf mode)
  | .fixedD0To31 d => d.wf mode
  | .construct _ _ => true
  | .read => true
  | .readbuf _ => true
  | .close => true

end Sys2Proof
end

