-- ==== Sys2Proof/Decode.lean ====
section
/-! DEFINITION. Decoding and encoding (R90 to R121).

`decodeElem` reads one element of the stream: the context says which format comes next (R120, column
"selected when"), the parser gives the bits, and the answer is an instruction with its operand fields, an
error kind, or a stop of the model.  Fields are read in stream order, so the first that cannot be read
raises (R232, R405).  `encode` gives the stream bits of an instruction, written from the same tables. -/

namespace Sys2Proof

open Sys2Proof.Machine

/-- What of the state selects the next element and its format (R120). -/
structure Ctx where
  /-- `CFG.MODE` (R106). -/
  mode : Mode
  phase : Phase
  sub : Sub
  /-- `SREM > 0` (R258). -/
  storedLeft : Bool
  /-- `CLIDX < NCL` and `CLIDX = NCL` (R273, R275), as the comparison of the two. -/
  clidx : Nat
  ncl : Nat
  /-- `PREV_VALID = 0` with `REP16_AT_START = fault`: `CL.REP16` raises before its extra bits are read
  (R278). -/
  rep16Stops : Bool
  cltab : Option Table
  lltab : Option Table
  dtab : Option Table
  deriving DecidableEq, Repr, Inhabited

/-- `Decode(T)` on a table that may be absent (R42). -/
def decodeWith (t : Option Table) (p : Parser) : Fetched Nat :=
  match t with
  | none => .rejected .tableAbsent
  | some t => decodeSym t p

/-! ### From symbols to instructions -/

/-- The row `CL.LEN.<v>` of a code-length symbol 0 to 15 (R277). -/
def clLenInstr (v : Nat) : Option Instr :=
  match v with
  | 0 => some .clLen0
  | 1 => some .clLen1
  | 2 => some .clLen2
  | 3 => some .clLen3
  | 4 => some .clLen4
  | 5 => some .clLen5
  | 6 => some .clLen6
  | 7 => some .clLen7
  | 8 => some .clLen8
  | 9 => some .clLen9
  | 10 => some .clLen10
  | 11 => some .clLen11
  | 12 => some .clLen12
  | 13 => some .clLen13
  | 14 => some .clLen14
  | 15 => some .clLen15
  | _ => none

/-- The row of a length symbol in a mode (R304 to R307), given its extra field and distance part. -/
def matchInstr (mode : Mode) (s x : Nat) (d : DistField) : Option Instr :=
  match mode, s with
  | .deflate, 285 => some (.matchL285 d)
  | .deflate64, 285 => some (.matchL285D64 (BitVec.ofNat 16 x) d)
  | _, 257 => some (.matchL257 d)
  | _, 258 => some (.matchL258 d)
  | _, 259 => some (.matchL259 d)
  | _, 260 => some (.matchL260 d)
  | _, 261 => some (.matchL261 d)
  | _, 262 => some (.matchL262 d)
  | _, 263 => some (.matchL263 d)
  | _, 264 => some (.matchL264 d)
  | _, 265 => some (.matchL265 (BitVec.ofNat 1 x) d)
  | _, 266 => some (.matchL266 (BitVec.ofNat 1 x) d)
  | _, 267 => some (.matchL267 (BitVec.ofNat 1 x) d)
  | _, 268 => some (.matchL268 (BitVec.ofNat 1 x) d)
  | _, 269 => some (.matchL269 (BitVec.ofNat 2 x) d)
  | _, 270 => some (.matchL270 (BitVec.ofNat 2 x) d)
  | _, 271 => some (.matchL271 (BitVec.ofNat 2 x) d)
  | _, 272 => some (.matchL272 (BitVec.ofNat 2 x) d)
  | _, 273 => some (.matchL273 (BitVec.ofNat 3 x) d)
  | _, 274 => some (.matchL274 (BitVec.ofNat 3 x) d)
  | _, 275 => some (.matchL275 (BitVec.ofNat 3 x) d)
  | _, 276 => some (.matchL276 (BitVec.ofNat 3 x) d)
  | _, 277 => some (.matchL277 (BitVec.ofNat 4 x) d)
  | _, 278 => some (.matchL278 (BitVec.ofNat 4 x) d)
  | _, 279 => some (.matchL279 (BitVec.ofNat 4 x) d)
  | _, 280 => some (.matchL280 (BitVec.ofNat 4 x) d)
  | _, 281 => some (.matchL281 (BitVec.ofNat 5 x) d)
  | _, 282 => some (.matchL282 (BitVec.ofNat 5 x) d)
  | _, 283 => some (.matchL283 (BitVec.ofNat 5 x) d)
  | _, 284 => some (.matchL284 (BitVec.ofNat 5 x) d)
  | _, _ => none

/-- The row of a distance field in a mode (R310 to R312). -/
def distInstr (mode : Mode) (d : DistField) : Instr :=
  match mode, d.sym.toNat with
  | _, 0 => .dist0
  | _, 1 => .dist1
  | _, 2 => .dist2
  | _, 3 => .dist3
  | _, 4 => .dist4 (d.extra.setWidth 1)
  | _, 5 => .dist5 (d.extra.setWidth 1)
  | _, 6 => .dist6 (d.extra.setWidth 2)
  | _, 7 => .dist7 (d.extra.setWidth 2)
  | _, 8 => .dist8 (d.extra.setWidth 3)
  | _, 9 => .dist9 (d.extra.setWidth 3)
  | _, 10 => .dist10 (d.extra.setWidth 4)
  | _, 11 => .dist11 (d.extra.setWidth 4)
  | _, 12 => .dist12 (d.extra.setWidth 5)
  | _, 13 => .dist13 (d.extra.setWidth 5)
  | _, 14 => .dist14 (d.extra.setWidth 6)
  | _, 15 => .dist15 (d.extra.setWidth 6)
  | _, 16 => .dist16 (d.extra.setWidth 7)
  | _, 17 => .dist17 (d.extra.setWidth 7)
  | _, 18 => .dist18 (d.extra.setWidth 8)
  | _, 19 => .dist19 (d.extra.setWidth 8)
  | _, 20 => .dist20 (d.extra.setWidth 9)
  | _, 21 => .dist21 (d.extra.setWidth 9)
  | _, 22 => .dist22 (d.extra.setWidth 10)
  | _, 23 => .dist23 (d.extra.setWidth 10)
  | _, 24 => .dist24 (d.extra.setWidth 11)
  | _, 25 => .dist25 (d.extra.setWidth 11)
  | _, 26 => .dist26 (d.extra.setWidth 12)
  | _, 27 => .dist27 (d.extra.setWidth 12)
  | _, 28 => .dist28 (d.extra.setWidth 13)
  | _, 29 => .dist29 (d.extra.setWidth 13)
  | .deflate64, 30 => .dist30D64 d.extra
  | .deflate64, _ => .dist31D64 d.extra
  | .deflate, c => .distInvalid (BitVec.ofNat 1 c)

/-! ### Reading elements -/

/-- The block header (R91, R241): `BFINAL`, then `BTYPE`; the row of its block type. -/
def readHeader (p : Parser) : Fetched Instr :=
  (p.getBits 1).bind fun f p1 => (p1.getBits 2).bind fun t p2 =>
    match t with
    | 0 => .ok (.blkStored (f == 1)) p2
    | 1 => .ok (.blkFixed (f == 1)) p2
    | 2 => .ok (.blkDynamic (f == 1)) p2
    | _ => .ok (.blkReserved (f == 1)) p2

/-- The stored-block header (R93, R256): the pad, `LEN`, `NLEN`. -/
def readStoredHdr (p : Parser) : Fetched Instr :=
  (p.alignByte.getBits 16).bind fun len p1 => (p1.getBits 16).bind fun nlen p2 =>
    .ok (.storedHdr (BitVec.ofNat 16 len) (BitVec.ofNat 16 nlen)) p2

/-- One stored byte (R258). -/
def readStoredByte (p : Parser) : Fetched Instr :=
  (p.getBits 8).bind fun v p1 => .ok (.storedByte (BitVec.ofNat 8 v)) p1

/-- The counts of a dynamic header (R94, R271). -/
def readCounts (p : Parser) : Fetched Instr :=
  (p.getBits 5).bind fun hlit p1 => (p1.getBits 5).bind fun hdist p2 => (p2.getBits 4).bind fun hclen p3 =>
    .ok (.dynCounts (BitVec.ofNat 5 hlit) (BitVec.ofNat 5 hdist) (BitVec.ofNat 4 hclen)) p3

/-- One code-length-code length (R95, R273). -/
def readCllen (p : Parser) : Fetched Instr :=
  (p.getBits 3).bind fun len p1 => .ok (.dynCllen (BitVec.ofNat 3 len)) p1

/-- What follows a code-length symbol (R96, R276 to R280).  Where symbol 16 raises before its extra bits
are read (R278), they are not read; the instruction raises whatever its field holds. -/
def clElement (rep16Stops : Bool) (s : Nat) (p : Parser) : Fetched Instr :=
  match s with
  | 16 =>
    if rep16Stops then .ok (.clRep16 0) p
    else (p.getBits 2).bind fun x p1 => .ok (.clRep16 (BitVec.ofNat 2 x)) p1
  | 17 => (p.getBits 3).bind fun x p1 => .ok (.clZrep17 (BitVec.ofNat 3 x)) p1
  | 18 => (p.getBits 7).bind fun x p1 => .ok (.clZrep18 (BitVec.ofNat 7 x)) p1
  | s =>
    match clLenInstr s with
    | some i => .ok i p
    | none => .rejected .brokenTable

/-- What follows a distance symbol (R99, R310 to R312): its extra bits; a symbol that is out of range in
the mode has none (R311). -/
def distElement (mode : Mode) (c : Nat) (p : Parser) : Fetched DistField :=
  if 32 ≤ c then .rejected .brokenTable
  else (p.getBits (dextra mode c)).bind fun x p1 =>
    .ok { sym := BitVec.ofNat 5 c, extra := BitVec.ofNat 14 x } p1

/-- The distance part of a match: a codeword of `DTAB`, then its extra bits (R99). -/
def readDist (mode : Mode) (dtab : Option Table) (p : Parser) : Fetched DistField :=
  (decodeWith dtab p).bind fun c p1 => distElement mode c p1

/-- What follows a literal/length symbol (R300, R304): nothing for a literal, the end of block and the
symbols without a meaning; the length extra bits and the distance part for a length symbol. -/
def dataElement (mode : Mode) (dist : Parser → Fetched DistField) (s : Nat) (p : Parser) : Fetched Instr :=
  if s ≤ 255 then .ok (.lit (BitVec.ofNat 8 s)) p
  else if s = 256 then .ok .eob p
  else if s ≤ 285 then
    (p.getBits (lextra mode s)).bind fun x p1 => (dist p1).bind fun d p2 =>
      match matchInstr mode s x d with
      | some i => .ok i p2
      | none => .rejected .brokenTable
  else if s ≤ 287 then .ok (.llInvalid (BitVec.ofNat 1 s)) p
  else .rejected .brokenTable

/-- One element of the data of a Fixed or Dynamic block (R300). -/
def readData (c : Ctx) (p : Parser) : Fetched Instr :=
  (decodeWith c.lltab p).bind fun s p1 => dataElement c.mode (readDist c.mode c.dtab) s p1

/-- One code-length element (R276). -/
def readCl (c : Ctx) (p : Parser) : Fetched Instr :=
  (decodeWith c.cltab p).bind fun s p1 => clElement c.rep16Stops s p1

/-- The operation selected by (`PHASE`, `SUB`) (R120), read from the stream. -/
def decodeElem (c : Ctx) (p : Parser) : Fetched Instr :=
  match c.phase with
  | .header => readHeader p
  | .stored =>
    match c.sub with
    | .sHdr => readStoredHdr p
    | .sData => if c.storedLeft then readStoredByte p else .rejected .noElement
    | _ => .rejected .noElement
  | .fixed =>
    match c.sub with
    | .fData => readData c p
    | _ => .rejected .noElement
  | .dynamic =>
    match c.sub with
    | .dCounts => readCounts p
    | .dCllens =>
      if c.clidx < c.ncl then readCllen p
      else if c.clidx = c.ncl then .ok .dynClbuild p
      else .rejected .noElement
    | .dLens => readCl c p
    | .dBuild => .ok .dynBuild p
    | .dData => readData c p
    | _ => .rejected .noElement
  | .done => .rejected .noElement
  | .failed => .rejected .noElement
  | .closed => .rejected .noElement

/-! ### The fixed codewords as bit patterns (R101)

The rows `FIXED_LL` and `FIXED_D` of the operation table, read by their patterns and not through a decode
table: the codeword's first bit is its most significant. -/

/-- One more codeword bit below those at hand. -/
def codeMore (v : Nat) (p : Parser) : Fetched Nat :=
  p.getBit.bind fun b p1 => .ok (2 * v + b.toNat) p1

/-- The next `n` codeword bits below those at hand. -/
def codeRead : Nat → Nat → Parser → Fetched Nat
  | 0, v, p => .ok v p
  | n + 1, v, p => (codeMore v p).bind fun v' p1 => codeRead n v' p1

/-- The distance part of a match in a Fixed block: 5 bits, the symbol value (R101), then its extra
bits. -/
def readFixedDist (mode : Mode) (p : Parser) : Fetched DistField :=
  (codeRead 5 0 p).bind fun c p1 => distElement mode c p1

/-- What follows the 7-bit codeword of symbol `256 + n` (R101). -/
def fixed256 (mode : Mode) (n : Nat) (p : Parser) : Fetched Instr :=
  if n = 0 then .ok (.fixedLl256To279 0 0 { sym := 0, extra := 0 }) p
  else
    (p.getBits (lextra mode (256 + n))).bind fun x p1 => (readFixedDist mode p1).bind fun d p2 =>
      .ok (.fixedLl256To279 (BitVec.ofNat 5 n) (BitVec.ofNat 4 x) d) p2

/-- What follows the 8-bit codeword of symbol `280 + n` (R101). -/
def fixed280 (mode : Mode) (n : Nat) (p : Parser) : Fetched Instr :=
  if 6 ≤ n then .ok (.fixedLl280To287 (BitVec.ofNat 3 n) 0 { sym := 0, extra := 0 }) p
  else
    (p.getBits (lextra mode (280 + n))).bind fun x p1 => (readFixedDist mode p1).bind fun d p2 =>
      .ok (.fixedLl280To287 (BitVec.ofNat 3 n) (BitVec.ofNat 16 x) d) p2

/-- One literal/length element of a Fixed block, read by the patterns of R101. -/
def readFixedRow (mode : Mode) (p : Parser) : Fetched Instr :=
  (codeRead 7 0 p).bind fun v7 p7 =>
    if v7 < 24 then fixed256 mode v7 p7
    else (codeMore v7 p7).bind fun v8 p8 =>
      if v8 < 192 then .ok (.fixedLl0To143 (BitVec.ofNat 8 (v8 - 48))) p8
      else if v8 < 200 then fixed280 mode (v8 - 192) p8
      else (codeMore v8 p8).bind fun v9 p9 =>
        .ok (.fixedLl144To255 (BitVec.ofNat 8 (v9 - 400 + 144))) p9

/-- The row of the distance part of a match, with its symbol decoded by `DTAB`. -/
def readDistRow (mode : Mode) (dtab : Option Table) (p : Parser) : Fetched Instr :=
  (readDist mode dtab p).bind fun d p1 => .ok (distInstr mode d) p1

/-! ### Encoding -/

/-- What an encoding depends on besides the instruction: the mode, the number of pad bits before a
stored header, and the code-length arrays of the three alphabets in use. -/
structure EncCtx where
  mode : Mode
  pad : Nat
  cl : List Nat
  ll : List Nat
  d : List Nat
  deriving DecidableEq, Repr, Inhabited

/-- The encoding context of a Fixed block (R101, R144, R145). -/
def fixedEnc (mode : Mode) : EncCtx :=
  { mode := mode, pad := 5, cl := [], ll := fixedLiteralLengthAlphabet, d := fixedDistanceAlphabet }

/-- The codeword of a symbol of a code (R132, R133); none for a symbol without a code. -/
def codewordOf (lens : List Nat) (s : Nat) : Option Bits :=
  ((codewordStrings lens)[s]?).getD none

/-- A distance field: its codeword, then its extra bits (R99). -/
def encodeDist (c : EncCtx) (d : DistField) : Option Bits :=
  (codewordOf c.d d.sym.toNat).map fun w =>
    w ++ fieldBits (dextra c.mode d.sym.toNat) d.extra.toNat

/-- A match: the length symbol's codeword, its extra bits in their mode's width, the distance part (R98,
R99). -/
def encodeMatch (c : EncCtx) (s x : Nat) (d : DistField) : Option Bits :=
  (codewordOf c.ll s).bind fun w => (encodeDist c d).map fun wd =>
    w ++ fieldBits (lextra c.mode s) x ++ wd

/-- The block header (R91, R92). -/
def encodeHeader (final : Bool) (type : Nat) : Bits :=
  final :: fieldBits 2 type

/-- A distance field in a Fixed block, by the pattern of R101. -/
def encodeFixedDist (mode : Mode) (d : DistField) : Bits :=
  codeBits 5 d.sym.toNat ++ fieldBits (dextra mode d.sym.toNat) d.extra.toNat

/-- The stream bits of an instruction (R90 to R101); none for a host call, which has no stream encoding
(R120), and for a symbol without a code. -/
def encode (c : EncCtx) : Instr → Option Bits
  | .bhdr final type => some (encodeHeader final type.toNat)
  | .blkStored final => some (encodeHeader final 0)
  | .blkFixed final => some (encodeHeader final 1)
  | .blkDynamic final => some (encodeHeader final 2)
  | .blkReserved final => some (encodeHeader final 3)
  | .storedHdr len nlen =>
    some (List.replicate c.pad false ++ fieldBits 16 len.toNat ++ fieldBits 16 nlen.toNat)
  | .storedByte v => some (fieldBits 8 v.toNat)
  | .dynCounts hlit hdist hclen =>
    some (fieldBits 5 hlit.toNat ++ fieldBits 5 hdist.toNat ++ fieldBits 4 hclen.toNat)
  | .dynCllen len => some (fieldBits 3 len.toNat)
  | .dynClbuild => some []
  | .clLen0 => codewordOf c.cl 0
  | .clLen1 => codewordOf c.cl 1
  | .clLen2 => codewordOf c.cl 2
  | .clLen3 => codewordOf c.cl 3
  | .clLen4 => codewordOf c.cl 4
  | .clLen5 => codewordOf c.cl 5
  | .clLen6 => codewordOf c.cl 6
  | .clLen7 => codewordOf c.cl 7
  | .clLen8 => codewordOf c.cl 8
  | .clLen9 => codewordOf c.cl 9
  | .clLen10 => codewordOf c.cl 10
  | .clLen11 => codewordOf c.cl 11
  | .clLen12 => codewordOf c.cl 12
  | .clLen13 => codewordOf c.cl 13
  | .clLen14 => codewordOf c.cl 14
  | .clLen15 => codewordOf c.cl 15
  | .clRep16 x => (codewordOf c.cl 16).map (· ++ fieldBits 2 x.toNat)
  | .clZrep17 x => (codewordOf c.cl 17).map (· ++ fieldBits 3 x.toNat)
  | .clZrep18 x => (codewordOf c.cl 18).map (· ++ fieldBits 7 x.toNat)
  | .dynBuild => some []
  | .lit b => codewordOf c.ll b.toNat
  | .eob => codewordOf c.ll 256
  | .matchL257 d => encodeMatch c 257 0 d
  | .matchL258 d => encodeMatch c 258 0 d
  | .matchL259 d => encodeMatch c 259 0 d
  | .matchL260 d => encodeMatch c 260 0 d
  | .matchL261 d => encodeMatch c 261 0 d
  | .matchL262 d => encodeMatch c 262 0 d
  | .matchL263 d => encodeMatch c 263 0 d
  | .matchL264 d => encodeMatch c 264 0 d
  | .matchL265 x d => encodeMatch c 265 x.toNat d
  | .matchL266 x d => encodeMatch c 266 x.toNat d
  | .matchL267 x d => encodeMatch c 267 x.toNat d
  | .matchL268 x d => encodeMatch c 268 x.toNat d
  | .matchL269 x d => encodeMatch c 269 x.toNat d
  | .matchL270 x d => encodeMatch c 270 x.toNat d
  | .matchL271 x d => encodeMatch c 271 x.toNat d
  | .matchL272 x d => encodeMatch c 272 x.toNat d
  | .matchL273 x d => encodeMatch c 273 x.toNat d
  | .matchL274 x d => encodeMatch c 274 x.toNat d
  | .matchL275 x d => encodeMatch c 275 x.toNat d
  | .matchL276 x d => encodeMatch c 276 x.toNat d
  | .matchL277 x d => encodeMatch c 277 x.toNat d
  | .matchL278 x d => encodeMatch c 278 x.toNat d
  | .matchL279 x d => encodeMatch c 279 x.toNat d
  | .matchL280 x d => encodeMatch c 280 x.toNat d
  | .matchL281 x d => encodeMatch c 281 x.toNat d
  | .matchL282 x d => encodeMatch c 282 x.toNat d
  | .matchL283 x d => encodeMatch c 283 x.toNat d
  | .matchL284 x d => encodeMatch c 284 x.toNat d
  | .matchL285 d => encodeMatch c 285 0 d
  | .matchL285D64 x d => encodeMatch c 285 x.toNat d
  | .llInvalid n => codewordOf c.ll (286 + n.toNat)
  | .dist0 => encodeDist c { sym := 0, extra := 0 }
  | .dist1 => encodeDist c { sym := 1, extra := 0 }
  | .dist2 => encodeDist c { sym := 2, extra := 0 }
  | .dist3 => encodeDist c { sym := 3, extra := 0 }
  | .dist4 x => encodeDist c { sym := 4, extra := x.setWidth 14 }
  | .dist5 x => encodeDist c { sym := 5, extra := x.setWidth 14 }
  | .dist6 x => encodeDist c { sym := 6, extra := x.setWidth 14 }
  | .dist7 x => encodeDist c { sym := 7, extra := x.setWidth 14 }
  | .dist8 x => encodeDist c { sym := 8, extra := x.setWidth 14 }
  | .dist9 x => encodeDist c { sym := 9, extra := x.setWidth 14 }
  | .dist10 x => encodeDist c { sym := 10, extra := x.setWidth 14 }
  | .dist11 x => encodeDist c { sym := 11, extra := x.setWidth 14 }
  | .dist12 x => encodeDist c { sym := 12, extra := x.setWidth 14 }
  | .dist13 x => encodeDist c { sym := 13, extra := x.setWidth 14 }
  | .dist14 x => encodeDist c { sym := 14, extra := x.setWidth 14 }
  | .dist15 x => encodeDist c { sym := 15, extra := x.setWidth 14 }
  | .dist16 x => encodeDist c { sym := 16, extra := x.setWidth 14 }
  | .dist17 x => encodeDist c { sym := 17, extra := x.setWidth 14 }
  | .dist18 x => encodeDist c { sym := 18, extra := x.setWidth 14 }
  | .dist19 x => encodeDist c { sym := 19, extra := x.setWidth 14 }
  | .dist20 x => encodeDist c { sym := 20, extra := x.setWidth 14 }
  | .dist21 x => encodeDist c { sym := 21, extra := x.setWidth 14 }
  | .dist22 x => encodeDist c { sym := 22, extra := x.setWidth 14 }
  | .dist23 x => encodeDist c { sym := 23, extra := x.setWidth 14 }
  | .dist24 x => encodeDist c { sym := 24, extra := x.setWidth 14 }
  | .dist25 x => encodeDist c { sym := 25, extra := x.setWidth 14 }
  | .dist26 x => encodeDist c { sym := 26, extra := x.setWidth 14 }
  | .dist27 x => encodeDist c { sym := 27, extra := x.setWidth 14 }
  | .dist28 x => encodeDist c { sym := 28, extra := x.setWidth 14 }
  | .dist29 x => encodeDist c { sym := 29, extra := x.setWidth 14 }
  | .distInvalid n => codewordOf c.d (30 + n.toNat)
  | .dist30D64 x => encodeDist c { sym := 30, extra := x }
  | .dist31D64 x => encodeDist c { sym := 31, extra := x }
  | .fixedLl0To143 b => some (codeBits 8 (48 + b.toNat))
  | .fixedLl144To255 b => some (codeBits 9 (400 + b.toNat - 144))
  | .fixedLl256To279 n x d =>
    some (codeBits 7 n.toNat ++
      if n = 0 then [] else fieldBits (lextra c.mode (256 + n.toNat)) x.toNat ++ encodeFixedDist c.mode d)
  | .fixedLl280To287 n x d =>
    some (codeBits 8 (192 + n.toNat) ++
      if 6 ≤ n.toNat then []
      else fieldBits (lextra c.mode (280 + n.toNat)) x.toNat ++ encodeFixedDist c.mode d)
  | .fixedD0To31 d => some (encodeFixedDist c.mode d)
  | .construct _ _ => none
  | .read => none
  | .readbuf _ => none
  | .close => none

/-! ### The words of the operation table

The table gives a row's bits over the 3-bit header field or over the decoded symbol (R121), so a word
alone does not name its format.  A 16-bit word is a literal/length symbol; an 8-bit word is the header
field that the engine reads after reset where it fits in 3 bits, else a code-length symbol where it is
one, else a distance symbol.  Log entry 10. -/

/-- The code-length array of a code whose only symbol is `s`: its codeword is the bit 0 (R138, R139). -/
def onlyLens (s : Nat) : List Nat :=
  List.replicate s 0 ++ [1]

/-- A table word that is a literal/length or distance symbol. -/
def wordIsData (nbits w : Nat) : Bool :=
  nbits == 16 || (19 ≤ w : Bool)

/-- A table word that is the header field. -/
def wordIsHeader (nbits w : Nat) : Bool :=
  !wordIsData nbits w && (w < 8 : Bool)

/-- The literal/length symbol of a table word in the data of a block; a distance symbol follows length
symbol 257. -/
def wordLlSym (nbits w : Nat) : Nat :=
  if nbits = 16 then w else 257

/-- The distance symbol of a table word in the data of a block; 0 after a length symbol. -/
def wordDSym (nbits w : Nat) : Nat :=
  if nbits = 16 then 0 else w

/-- The bytes of a table word: the header field, or the codeword of the symbol, which is the bit 0; zeros
follow for the longest element that there is (R105). -/
def tableWordBytes (nbits w : Nat) : List Byte :=
  packBytes (if wordIsHeader nbits w then fieldBits 3 w else [false]) ++ List.replicate 8 0

/-- A decode table for the words, in the reset state's configuration. -/
def wordTable (which : Which) (lens : List Nat) (maxl : Nat) : Option Table :=
  buildTable defaultCfg defaultParams which lens maxl

/-- The context in which a table word is read: the header, the code lengths, or the data of a Dynamic
block. -/
def tableWordCtx (nbits w : Nat) : Ctx :=
  let data := wordIsData nbits w
  let head := wordIsHeader nbits w
  { mode := .deflate
    phase := if head then .header else .dynamic
    sub := if data then .dData else if head then .sHdr else .dLens
    storedLeft := false, clidx := 0, ncl := 0, rep16Stops := true
    cltab := if data || head then none else wordTable .cl (onlyLens w) 7
    lltab := if data then wordTable .ll (onlyLens (wordLlSym nbits w)) 15 else none
    dtab := if data then wordTable .d (onlyLens (wordDSym nbits w)) 15 else none }

/-- The distance row inside a match of length symbol 257: the component that a distance symbol's word
names. -/
def distRowOf (mode : Mode) : Instr → Option Instr
  | .matchL257 d => some (distInstr mode d)
  | _ => none

/-- The instruction that the decoder reads from a table word; none where it refuses. -/
def decodeTableWord (nbits w : Nat) : Option Instr :=
  if nbits ≠ 8 ∧ nbits ≠ 16 then none
  else if (nbits = 8 ∧ 32 ≤ w) ∨ (nbits = 16 ∧ 288 ≤ w) then none
  else
    match decodeElem (tableWordCtx nbits w) (Parser.start (tableWordBytes nbits w)) with
    | .ok i _ => if nbits = 8 ∧ 19 ≤ w then distRowOf .deflate i else some i
    | .raised _ _ => none
    | .rejected _ => none

end Sys2Proof
end

