-- ==== Sys2Proof/Machine/Memory.lean ====
section
/-! DEFINITION. Physical storage `PHYS` as a list of cells in one canonical form: addresses strictly
rising.  An address that is not listed holds no byte: its content is unspecified and no rule reads it
(R49, U30; log entry 6). -/

namespace Sys2Proof.Machine

/-- The canonical form: the addresses rise strictly. -/
def Memory.wf : List Host.Cell → Bool
  | [] => true
  | [_] => true
  | (a, _) :: (a', b') :: rest => decide (a < a') && Memory.wf ((a', b') :: rest)

/-- The byte at an address, if any was written there. -/
def Memory.read : List Host.Cell → Nat → Option Byte
  | [], _ => none
  | (a, b) :: rest, x => if x = a then some b else Memory.read rest x

/-- Writing one byte. -/
def Memory.write : List Host.Cell → Nat → Byte → List Host.Cell
  | [], x, v => [(x, v)]
  | (a, b) :: rest, x, v =>
    if x < a then (x, v) :: (a, b) :: rest
    else if x = a then (x, v) :: rest
    else (a, b) :: Memory.write rest x v

/-- Releasing every cell below an address (R193). -/
def Memory.dropBelow (low : Nat) (m : List Host.Cell) : List Host.Cell :=
  m.filter fun c => decide (low ≤ c.1)

end Sys2Proof.Machine
end

