-- ==== Sys2Proof/Machine/ResizePolicy.lean ====
section
/-! DEFINITION. The resize policies `grow(current, required)` (R200 to R209). -/

namespace Sys2Proof.Machine

/-- `ARITH_DOUBLING(STEP)` (R201): the capacity doubles while the increment is at most `STEP`, then grows
by `STEP`.  Each turn adds at least 1, so `required` turns are enough. -/
def growArith (step required : Nat) : Nat → Nat → Nat
  | 0, n => n
  | fuel + 1, n => if n < required then growArith step required fuel (n + min n step) else n

/-- `POW2_SHIFT` (R202). -/
def growPow2 (required : Nat) : Nat → Nat → Nat
  | 0, n => n
  | fuel + 1, n => if n < required then growPow2 required fuel (n * 2) else n

/-- A table policy (R203): the smallest entry that is at least `required`, else `required`. -/
def growTable (required : Nat) : List Nat → Nat
  | [] => required
  | t :: rest => if required ≤ t then t else growTable required rest

/-- `grow(current, required)` of the configured policy (R200), with the generator state of `RANDOM`
before and after.  `RANDOM` draws a free value that is at least `required` (R209; log entry 5). -/
def grow (policy : Policy) (g : GrowthTables) (rng : Option Nat) (current required : Nat) :
    Nat × Option Nat :=
  match policy with
  | .arithDoubling step => (growArith step required required current, rng)
  | .pow2Shift => (growPow2 required required current, rng)
  | .tablePaper => (growTable required g.paper, rng)
  | .tableGolden => (growTable required g.golden, rng)
  | .tableNatural => (growTable required g.natural, rng)
  | .tablePaperPrime => (growTable required g.paperPrime, rng)
  | .tableGoldenPrime => (growTable required g.goldenPrime, rng)
  | .tableNaturalPrime => (growTable required g.naturalPrime, rng)
  | .random seed =>
    let r := rng.getD seed
    (required + Config.rngDraw r current required, some (Config.rngNext r))

end Sys2Proof.Machine
end

