-- ==== Sys2Proof/Machine/Buffer.lean ====
section
/-! DEFINITION. The run buffer (R180 to R196): the logical sequence `OUT` with `TOTAL` and `DRAINED`, and
beside it the physical layout of the configured strategy, `EnsureCapacity` and the retained region.

A read of the history answers from `OUT` (R181: the result is `OUT[p]`); the physical cells are kept as
the layout rules say and are read when a growth or a compaction re-lays the retained bytes. -/

namespace Sys2Proof.Machine

/-- `TOTAL` (R46). -/
def Buf.total (b : Buf) : Nat :=
  b.out.length

/-- The undelivered bytes, `OUT[DRAINED .. TOTAL-1]` (R47): how many. -/
def Buf.atHand (b : Buf) : Nat :=
  Buf.total b - b.drained

/-- The lowest position that must stay readable when the output has `t` bytes (R48, R187). -/
def retainFrom (wsize drained t : Nat) : Nat :=
  min drained (t - min t wsize)

/-- A free choice between two bounds: any value from `low` to `high`; `high` where the bounds leave no
choice. -/
def pickBetween (low high k : Nat) : Nat :=
  if low < high then low + k % (high - low + 1) else high

/-- The physical index of a logical position (R190, R192, R193). -/
def physIndex (kind : BufferKind) (cap base p : Nat) : Nat :=
  match kind with
  | .cyclic => p % cap
  | .copyOnGrow => p - base
  | .blockList => p
  | .nativeStrict => p - base
  | .nativeLenient => p - base

/-- The byte that the physical storage holds for a logical position. -/
def Buf.physRead (kind : BufferKind) (b : Buf) (p : Nat) : Option Byte :=
  Memory.read b.phys (physIndex kind b.cap b.base p)

/-- Storage of a new capacity with the retained bytes `OUT[lo .. TOTAL-1]` laid out anew (R187, R191,
R192): each byte is read where the old layout holds it. -/
def relay (kind : BufferKind) (b : Buf) (cap' base' lo : Nat) : List Host.Cell :=
  (List.range (Buf.total b - lo)).foldl
    (fun m i =>
      match Buf.physRead kind b (lo + i) with
      | some v => Memory.write m (physIndex kind cap' base' (lo + i)) v
      | none => m)
    []

/-- `EnsureCapacity` of the `CYCLIC` strategy (R187, R190, R191).  The ring holds the last `CAP`
positions, and after a growth the re-laid ones. -/
def ensureCyclic (cfg : Cfg) (g : GrowthTables) (k t1 : Nat) (b : Buf) : Buf :=
  let lo := retainFrom cfg.wsize b.drained t1
  if b.cap < t1 - lo then
    let n := grow cfg.policy g b.rng b.cap (t1 - lo)
    { b with cap := n.1, rng := n.2, phys := relay .cyclic b n.1 b.base lo, rlo := lo }
  else { b with rlo := pickBetween (max b.rlo (t1 - b.cap)) lo (Config.freeNat k) }

/-- `EnsureCapacity` of the linear strategies `COPY_ON_GROW`, `NATIVE_STRICT` and `NATIVE_LENIENT` (R187,
R192, R194, R195): when the append would land at index `CAP`, the retained bytes go to the front of a new
array, which is larger only if they do not fit. -/
def ensureLinear (cfg : Cfg) (g : GrowthTables) (k t1 : Nat) (b : Buf) : Buf :=
  let lo := retainFrom cfg.wsize b.drained t1
  if b.cap < t1 - lo then
    let n := grow cfg.policy g b.rng b.cap (t1 - lo)
    { b with cap := n.1, rng := n.2, phys := relay cfg.buffer b n.1 lo lo, base := lo, rlo := lo }
  else if b.cap ≤ Buf.total b - b.base then
    { b with phys := relay cfg.buffer b b.cap lo lo, base := lo, rlo := lo }
  else { b with rlo := pickBetween (max b.rlo b.base) lo (Config.freeNat k) }

/-- `EnsureCapacity` of the `BLOCK_LIST` strategy (R187, R193): blocks that lie wholly below `lo` may be
released (how many is a free choice, log entry 4), a block is taken when the new position needs one, the
list of block references grows by the policy, and `CAP` is the live blocks times the block size. -/
def ensureBlocks (cfg : Cfg) (g : GrowthTables) (k t1 : Nat) (b : Buf) : Buf :=
  let lo := retainFrom cfg.wsize b.drained t1
  let bs := cfg.blockSize
  let first := pickBetween (b.base / bs) (lo / bs) (Config.freeNat k)
  let live := (t1 - 1) / bs + 1 - first
  let n := if b.refCap < live then grow cfg.policy g b.rng b.refCap live else (b.refCap, b.rng)
  { b with
    base := first * bs, refCap := n.1, rng := n.2, cap := live * bs,
    phys := Memory.dropBelow (first * bs) b.phys,
    rlo := pickBetween (max b.rlo (first * bs)) lo (Config.freeNat (k + 1)) }

/-- `EnsureCapacity(T1)` (R187), `t1` being the value of `TOTAL` after the append; only hidden state
changes.  It always succeeds (R210, D28; log entry 11). -/
def ensureCapacity (cfg : Cfg) (g : GrowthTables) (k t1 : Nat) (b : Buf) : Buf :=
  match cfg.buffer with
  | .cyclic => ensureCyclic cfg g k t1 b
  | .copyOnGrow => ensureLinear cfg g k t1 b
  | .blockList => ensureBlocks cfg g k t1 b
  | .nativeStrict => ensureLinear cfg g k t1 b
  | .nativeLenient => ensureLinear cfg g k t1 b

/-- The write of one byte at logical position `TOTAL`, in the layout and in `OUT` (R182, R190). -/
def Buf.put (cfg : Cfg) (v : Byte) (b : Buf) : Buf :=
  { b with
    out := b.out ++ [v]
    phys := Memory.write b.phys (physIndex cfg.buffer b.cap b.base (Buf.total b)) v }

/-- `Append(v)` on the buffer (R182): `EnsureCapacity(TOTAL + 1)`, then the write. -/
def Buf.append (cfg : Cfg) (g : GrowthTables) (k : Nat) (v : Byte) (b : Buf) : Buf :=
  Buf.put cfg v (ensureCapacity cfg g k (Buf.total b + 1) b)

/-- `MemRead(p, 1)` (R181): the byte `OUT[p]` for `RLO <= p < TOTAL`; none outside, where the engine has
no step. -/
def Buf.memRead (b : Buf) (p : Nat) : Option Byte :=
  if b.rlo ≤ p then b.out[p]? else none

/-- `Drain(k)` on the buffer (R185): the progress; the bytes are those of `Buf.undelivered`. -/
def Buf.drain (k : Nat) (b : Buf) : Buf :=
  { b with drained := b.drained + k }

/-- The next `k` undelivered bytes, `OUT[DRAINED .. DRAINED+k-1]` (R185). -/
def Buf.undelivered (k : Nat) (b : Buf) : List Byte :=
  (b.out.drop b.drained).take k

/-- The run buffer after reset (R55, R186): nothing produced, capacity `CFG.INIT_CAP`, no cell written,
the generator at its seed (R50).  The capacity of the list of block references is the least that holds
`INIT_CAP` bytes (DESIGN CHOICE, log entry 8). -/
def Buf.fresh (cfg : Cfg) : Buf :=
  { out := [], drained := 0, rlo := 0, cap := cfg.initCap, base := 0
    refCap := (cfg.initCap + cfg.blockSize - 1) / cfg.blockSize
    phys := []
    rng := match cfg.policy with
      | .random seed => some seed
      | _ => none }

end Sys2Proof.Machine
end

