-- ==== Sys2Proof/Machine/State.lean ====
section
/-! DEFINITION. The state of the machine: everything the spec gives one engine (R20 to R55) with its
source and its host port, the reasons a step can stop, and the state after reset. -/

namespace Sys2Proof.Machine

/-- Why the machine stops: the engine has no step.  None arises from the reset state; each is safe, since
the model stops where the spec gives no step. -/
inductive Fault where
  /-- `step`: (`PHASE`, `SUB`) selects no operation (R120), as `STORED` with `SUB = F_DATA`.  Safe. -/
  | noElement
  /-- `step`: the element needs a decode table that is absent (R42, R463).  Safe. -/
  | tableAbsent
  /-- `step`: the decode table is none that `Build` makes (R140, R153).  Safe. -/
  | brokenTable
  /-- `CopyBack`: a read outside `RLO <= p < TOTAL`, for which a model has no step (R181), or a failed check of
  `NATIVE_LENIENT`, for which R195 names no outcome (DESIGN CHOICE, log entry 22).  Safe. -/
  | readOutsideBuffer
  deriving DecidableEq, Repr

/-- Why an instruction has no meaning. -/
inductive Refusal where
  /-- `exec`: the instruction has no meaning in the model yet; no arm of `exec` raises it.  Safe. -/
  | notModelled (mnemonic : String)
  /-- `READ`, `READBUF`: the call is made after `CLOSE`, which is outside the contract (R351, U40).
  Safe. -/
  | readAfterClose
  deriving DecidableEq, Repr

/-- The state of one engine, its source and its host port.  `TOTAL`, `BP`, `BITCNT` and the code of `ERR`
are computed views.  `opStart` and `free` are the model's own: `IPOS` at the start of the stream
operation being executed, for the bound of R412, and the counter of free values (log entry 3). -/
structure State where
  cfg : Cfg
  params : Params
  bits : Parser
  phase : Phase
  err : Option ErrKind
  errPending : Bool
  eosSignalled : Bool
  fixedBuilt : Bool
  reg : Regs
  buf : Buf
  host : HostPort
  opStart : Nat
  free : Nat
  deriving DecidableEq, Repr

/-- The registers, arrays and tables after reset (R55): all zero, all tables absent; `SUB` holds `S_HDR`
(R26). -/
def Regs.fresh : Regs :=
  { sub := .sHdr, bfinal := false, btype := 0, len := 0, nlen := 0, srem := 0
    hlit := 0, hdist := 0, hclen := 0, clidx := 0, lidx := 0, prev := 0, prevValid := false
    sym := 0, dsym := 0, mlen := 0, mdist := 0
    cll := List.replicate 19 0, lens := List.replicate 320 0
    ll := List.replicate 288 0, dl := List.replicate 32 0
    cltab := none, lltab := none, dtab := none, fixlltab := none, fixdtab := none }

/-- The machine after reset (R55, R440): the construction of an instance, with the default configuration
(log entry 2), no source bytes and no host call (log entry 1). -/
def State.reset : State :=
  { cfg := defaultCfg, params := defaultParams
    bits := Parser.start []
    phase := .header, err := none, errPending := false, eosSignalled := false, fixedBuilt := false
    reg := Regs.fresh, buf := Buf.fresh defaultCfg
    host := { call := none, want := 0, calls := [], responses := [] }
    opStart := 0, free := 0 }

end Sys2Proof.Machine
end

