-- ==== Sys2Proof/Machine/Ops.lean ====
section
/-! DEFINITION. The named operations over the state: the computed registers, raising an error kind (the
engine's one exception), appending, copying back and draining. -/

namespace Sys2Proof.Machine

/-- The outcome of one operation. -/
abbrev Result := Host.Outcome State Fault Refusal

/-! ### Computed registers -/

/-- `TOTAL` (R46). -/
def State.total (s : State) : Nat :=
  Buf.total s.buf

/-- `BP` (R22, R23). -/
def State.bp (s : State) : Nat :=
  s.bits.bp

/-- The undelivered bytes at hand, `TOTAL - DRAINED` (R47). -/
def State.atHand (s : State) : Nat :=
  Buf.atHand s.buf

/-- The numeric code of an error kind (R400). -/
def errCode : ErrKind → BitVec 4
  | .incompleteCode => 1
  | .invalidBlockType => 2
  | .lengthCheckMismatch => 3
  | .invalidBackReference => 4
  | .unexpectedEndOfStream => 5
  | .signatureMismatch => 6
  | .checksumMismatch => 7
  | .unsupportedCompressionMethod => 8

/-- The register `ERR` as its 4-bit code (R28, R400). -/
def State.errReg (s : State) : BitVec 4 :=
  match s.err with
  | none => 0
  | some e => errCode e

/-- `PHASE` as its 3-bit encoding (R25). -/
def phaseCode : Phase → BitVec 3
  | .header => 0
  | .stored => 1
  | .fixed => 2
  | .dynamic => 3
  | .done => 4
  | .failed => 5
  | .closed => 6

/-- The phases in which the engine can execute a stream operation (R240, R344). -/
def running : Phase → Bool
  | .header => true
  | .stored => true
  | .fixed => true
  | .dynamic => true
  | .done => false
  | .failed => false
  | .closed => false

/-! ### Raising an error kind -/

/-- How many source bytes a fault leaves taken (R412): a free value, at least what the completed
operations needed (`opStart`) and at most what the operation has taken (`taken`). -/
def faultIpos (k opStart taken : Nat) : Nat :=
  pickBetween (min opStart taken) taken (Config.freeNat k)

/-- `raise E` (R410): `ERR` holds the kind (written only while it is 0, R28), `ERR_PENDING` is set,
`PHASE` is `FAILED`, and the step ends.  What R412 leaves unspecified holds free values (log entry 3);
`OUT`, `TOTAL`, `DRAINED` and `CFG` stay. -/
def raise (e : ErrKind) (s : State) : State :=
  { s with
    phase := .failed
    err := some (s.err.getD e)
    errPending := true
    bits := { s.bits with
      bitbuf := (Config.residue s.free).bitbuf
      ipos := faultIpos s.free s.opStart s.bits.ipos }
    reg := (Config.residue s.free).reg
    free := s.free + 1 }

/-! ### The run buffer -/

/-- `Append(v)` (R182).  The layout makes two free choices at most. -/
def append (v : Byte) (s : State) : State :=
  { s with buf := Buf.append s.cfg s.params.growth s.free v s.buf, free := s.free + 2 }

/-- The loop of `CopyBack(L, D)` (R183): one byte is read and appended at a time, in forward order. -/
def copyLoop (d : Nat) : Nat → State → Result
  | 0, s => .next s
  | n + 1, s =>
    match Buf.memRead s.buf (s.total - d) with
    | none => .fault .readOutsideBuffer
    | some v => copyLoop d n (append v s)

/-- The re-check of `NATIVE_STRICT` inside `CopyBack` (R194). -/
def strictCheck (d : Nat) (s : State) : Bool :=
  decide (1 ≤ d ∧ d ≤ min s.total s.cfg.wsize)

/-- The check of `NATIVE_LENIENT` inside `CopyBack` (R195): the physical buffer holds the position.  What
follows where it fails is log entry 22. -/
def lenientCheck (d : Nat) (s : State) : Bool :=
  decide (s.buf.base ≤ s.total - d)

/-- `CopyBack(L, D)` (R183) with the check of the configured strategy (R194, R195).  DESIGN CHOICE (log entry
22): where the check of `NATIVE_LENIENT` fails, for which R195 names no outcome, the model stops by the fault
`readOutsideBuffer`; no session comes there, since `MATCH` checks first (R184, R315). -/
def copyBack (l d : Nat) (s : State) : Result :=
  match s.cfg.buffer with
  | .cyclic => copyLoop d l s
  | .copyOnGrow => copyLoop d l s
  | .blockList => copyLoop d l s
  | .nativeStrict =>
    if strictCheck d s then copyLoop d l s else .next (raise .invalidBackReference s)
  | .nativeLenient => if lenientCheck d s then copyLoop d l s else .fault .readOutsideBuffer

/-- `CheckLegal(D)` (R315), `TOTAL` being read once, before the copy (D44). -/
def legalDistance (d : Nat) (s : State) : Bool :=
  decide (d ≤ s.total ∧ d ≤ s.cfg.wsize)

/-- `Drain(k)` (R185): the progress of delivery. -/
def drain (k : Nat) (s : State) : State :=
  { s with buf := Buf.drain k s.buf }

/-! ### What selects the next element -/

/-- The decoding context of a state (R120). -/
def State.ctx (s : State) : Ctx :=
  { mode := s.cfg.mode, phase := s.phase, sub := s.reg.sub
    storedLeft := s.reg.srem != 0
    clidx := s.reg.clidx, ncl := ncl s.reg.hclen
    rep16Stops := !s.reg.prevValid && s.params.rep16AtStart == .fault
    cltab := s.reg.cltab, lltab := s.reg.lltab, dtab := s.reg.dtab }

end Sys2Proof.Machine
end

