-- ==== Sys2Proof/Machine/Flags.lean ====
section
/-! DEFINITION. The status computations that several operations share: the end of a block, the end of the
code lengths, and the condition under which a read call goes on. -/

namespace Sys2Proof.Machine

/-- `EndBlock` (R245): `DONE` after the final block, else the next header. -/
def endBlock (s : State) : State :=
  { s with phase := if s.reg.bfinal then .done else .header }

/-- The 16-bit check of a stored header (R256): `LEN = ~NLEN`. -/
def lenCheck (len nlen : BitVec 16) : Bool :=
  len == ~~~nlen

/-- The number of code lengths of a dynamic header, `NLIT + NDIST` (R94). -/
def lensWanted (s : State) : Nat :=
  nlit s.reg.hlit + ndist s.reg.hdist

/-- After each code-length operation: the code lengths are complete when `LIDX = NLIT + NDIST` (R276,
R282). -/
def afterLens (s : State) : State :=
  if s.reg.lidx = lensWanted s then { s with reg := { s.reg with sub := .dBuild } } else s

/-- The condition of the loop of `Advance(want)` (R344): too few bytes at hand, and steps remain. -/
def State.needsMore (s : State) (want : Nat) : Bool :=
  decide (s.atHand < want) && running s.phase

end Sys2Proof.Machine
end

