-- ==== Sys2Proof/Machine/BlockHeader.lean ====
section
/-! DEFINITION. The block header operations (R240 to R249).  Each `BLK.*` row records `BFINAL` and
`BTYPE`, as `BHDR` does before it dispatches (R241), and carries out its action. -/

namespace Sys2Proof.Machine

/-- The two fields of a block header are recorded, for every type (R241). -/
def recordHeader (final : Bool) (type : BitVec 2) (s : State) : State :=
  { s with reg := { s.reg with bfinal := final, btype := type } }

/-- The action of `BLK.STORED` (R242). -/
def enterStored (s : State) : State :=
  { s with phase := .stored, reg := { s.reg with sub := .sHdr } }

/-- The two fixed tables (R146): built once per session, by the first `BLK.FIXED` (R34, R243). -/
def buildFixed (s : State) : State :=
  if s.fixedBuilt then s
  else
    { s with
      fixedBuilt := true
      reg := { s.reg with
        fixlltab := buildTable s.cfg s.params .ll fixedLiteralLengthAlphabet maxBitsData
        fixdtab := buildTable s.cfg s.params .d fixedDistanceAlphabet maxBitsData } }

/-- `LLTAB` and `DTAB` designate the fixed tables, and the phase is `FIXED` (R243); the code-length arrays
of a fixed block are the fixed alphabets (R41). -/
def useFixed (s : State) : State :=
  { s with
    phase := .fixed
    reg := { s.reg with
      sub := .fData, lltab := s.reg.fixlltab, dtab := s.reg.fixdtab
      ll := fixedLiteralLengthAlphabet.map (BitVec.ofNat 4)
      dl := fixedDistanceAlphabet.map (BitVec.ofNat 4) } }

/-- The action of `BLK.FIXED` (R243). -/
def enterFixed (s : State) : State :=
  useFixed (buildFixed s)

/-- The action of `BLK.DYNAMIC` (R244): the tables of an earlier block are discarded. -/
def enterDynamic (s : State) : State :=
  { s with
    phase := .dynamic
    reg := { s.reg with sub := .dCounts, cltab := none, lltab := none, dtab := none } }

/-- `BLK.STORED` (R242). -/
def execBlkStored (final : Bool) (s : State) : Result :=
  .next (enterStored (recordHeader final 0 s))

/-- `BLK.FIXED` (R243). -/
def execBlkFixed (final : Bool) (s : State) : Result :=
  .next (enterFixed (recordHeader final 1 s))

/-- `BLK.DYNAMIC` (R244). -/
def execBlkDynamic (final : Bool) (s : State) : Result :=
  .next (enterDynamic (recordHeader final 2 s))

/-- `BLK.RESERVED` (R246): raises `InvalidBlockTypeError`. -/
def execBlkReserved (final : Bool) (s : State) : Result :=
  .next (raise .invalidBlockType (recordHeader final 3 s))

/-- `BHDR` (R241): records the fields and dispatches on `BTYPE`. -/
def execBhdr (final : Bool) (type : BitVec 2) (s : State) : Result :=
  match type with
  | 0 => execBlkStored final s
  | 1 => execBlkFixed final s
  | 2 => execBlkDynamic final s
  | 3 => execBlkReserved final s

end Sys2Proof.Machine
end

