-- ==== Sys2Proof/Machine/DynamicHeader.lean ====
section
/-! DEFINITION. The dynamic block header (R270 to R287). -/

namespace Sys2Proof.Machine

/-- `DYN.COUNTS` (R271): the counts are recorded, `CLL` is cleared. -/
def execDynCounts (hlit hdist : BitVec 5) (hclen : BitVec 4) (s : State) : Result :=
  .next { s with
    reg := { s.reg with
      hlit := hlit, hdist := hdist, hclen := hclen
      cll := List.replicate 19 0, clidx := 0, sub := .dCllens } }

/-- `DYN.CLLEN` (R273): `CLL[CLORDER[CLIDX]]` is written. -/
def execDynCllen (len : BitVec 3) (s : State) : Result :=
  .next { s with
    reg := { s.reg with
      cll := match clOrder[s.reg.clidx]? with
        | some c => s.reg.cll.set c len
        | none => s.reg.cll
      clidx := s.reg.clidx + 1 } }

/-- `DYN.CLBUILD` (R275): builds `CLTAB` and starts the code lengths, or raises. -/
def execDynClbuild (s : State) : Result :=
  match buildTable s.cfg s.params .cl (s.reg.cll.map BitVec.toNat) maxBitsCl with
  | none => .next (raise .incompleteCode s)
  | some t =>
    .next { s with
      reg := { s.reg with
        cltab := some t, lidx := 0, prevValid := false, prev := 0, sub := .dLens } }

/-- `r` code lengths `v` from `LENS[LIDX]` on, and `LIDX` after them (R277 to R280). -/
def putLens (r : Nat) (v : BitVec 4) (s : State) : State :=
  { s with
    reg := { s.reg with
      lens := (List.range r).foldl (fun l j => l.set (s.reg.lidx + j) v) s.reg.lens
      lidx := s.reg.lidx + r } }

/-- The last code length produced (R32). -/
def setPrev (v : BitVec 4) (s : State) : State :=
  { s with reg := { s.reg with prev := v, prevValid := true } }

/-- `CL.LEN` (R277): the next code length is the symbol. -/
def clLen (v : BitVec 4) (s : State) : Result :=
  .next (afterLens (setPrev v (putLens 1 v s)))

/-- A repeat of `r` code lengths `v` that does not overrun, else `IncompleteCodeError` (R281). -/
def repeatLens (r : Nat) (v : BitVec 4) (s : State) : Result :=
  if lensWanted s < s.reg.lidx + r then .next (raise .incompleteCode s)
  else .next (afterLens (putLens r v s))

/-- A run of zero lengths (R279, R280): after it the last length produced is 0. -/
def zeroLens (r : Nat) (s : State) : Result :=
  if lensWanted s < s.reg.lidx + r then .next (raise .incompleteCode s)
  else .next (afterLens (setPrev 0 (putLens r 0 s)))

/-- `CL.LEN.0` (R277). -/
def execClLen0 (s : State) : Result :=
  clLen 0 s

/-- `CL.LEN.1` (R277). -/
def execClLen1 (s : State) : Result :=
  clLen 1 s

/-- `CL.LEN.2` (R277). -/
def execClLen2 (s : State) : Result :=
  clLen 2 s

/-- `CL.LEN.3` (R277). -/
def execClLen3 (s : State) : Result :=
  clLen 3 s

/-- `CL.LEN.4` (R277). -/
def execClLen4 (s : State) : Result :=
  clLen 4 s

/-- `CL.LEN.5` (R277). -/
def execClLen5 (s : State) : Result :=
  clLen 5 s

/-- `CL.LEN.6` (R277). -/
def execClLen6 (s : State) : Result :=
  clLen 6 s

/-- `CL.LEN.7` (R277). -/
def execClLen7 (s : State) : Result :=
  clLen 7 s

/-- `CL.LEN.8` (R277). -/
def execClLen8 (s : State) : Result :=
  clLen 8 s

/-- `CL.LEN.9` (R277). -/
def execClLen9 (s : State) : Result :=
  clLen 9 s

/-- `CL.LEN.10` (R277). -/
def execClLen10 (s : State) : Result :=
  clLen 10 s

/-- `CL.LEN.11` (R277). -/
def execClLen11 (s : State) : Result :=
  clLen 11 s

/-- `CL.LEN.12` (R277). -/
def execClLen12 (s : State) : Result :=
  clLen 12 s

/-- `CL.LEN.13` (R277). -/
def execClLen13 (s : State) : Result :=
  clLen 13 s

/-- `CL.LEN.14` (R277). -/
def execClLen14 (s : State) : Result :=
  clLen 14 s

/-- `CL.LEN.15` (R277). -/
def execClLen15 (s : State) : Result :=
  clLen 15 s

/-- `CL.REP16` with a previous length (R278): `PREV` is unchanged by the repeat. -/
def rep16 (x : BitVec 2) (s : State) : Result :=
  repeatLens (rep16Count x) s.reg.prev s

/-- `CL.REP16` (R278): with no previous length the parameter `REP16_AT_START` decides, before the extra
bits count. -/
def execClRep16 (x : BitVec 2) (s : State) : Result :=
  if s.reg.prevValid then rep16 x s
  else
    match s.params.rep16AtStart with
    | .fault => .next (raise .incompleteCode s)
    | .repeatZero => rep16 x { s with reg := { s.reg with prev := 0 } }

/-- `CL.ZREP17` (R279). -/
def execClZrep17 (x : BitVec 3) (s : State) : Result :=
  zeroLens (zrep17Count x) s

/-- `CL.ZREP18` (R280). -/
def execClZrep18 (x : BitVec 7) (s : State) : Result :=
  zeroLens (zrep18Count x) s

/-- `LL` of a dynamic block (R41, R284): `LENS[s]` for `s < NLIT`, 0 up to symbol 287. -/
def dynLl (r : Regs) : List (BitVec 4) :=
  (List.range 288).map fun i => if i < nlit r.hlit then r.lens.getD i 0 else 0

/-- `DL` of a dynamic block (R41, R284): `LENS[NLIT + c]` for `c < NDIST`, 0 up to symbol 31. -/
def dynDl (r : Regs) : List (BitVec 4) :=
  (List.range 32).map fun c => if c < ndist r.hdist then r.lens.getD (nlit r.hlit + c) 0 else 0

/-- The two code-length arrays of a dynamic block are written (R284). -/
def splitLens (s : State) : State :=
  { s with reg := { s.reg with ll := dynLl s.reg, dl := dynDl s.reg } }

/-- `LLTAB` and `DTAB` are built, the literal/length array being checked first (R284, D23). -/
def buildData (s : State) : Result :=
  match buildTable s.cfg s.params .ll (s.reg.ll.map BitVec.toNat) maxBitsData with
  | none => .next (raise .incompleteCode s)
  | some tl =>
    match buildTable s.cfg s.params .d (s.reg.dl.map BitVec.toNat) maxBitsData with
    | none => .next (raise .incompleteCode s)
    | some td =>
      .next { s with
        reg := { s.reg with lltab := some tl, dtab := some td, cltab := none, sub := .dData } }

/-- `DYN.BUILD` (R284). -/
def execDynBuild (s : State) : Result :=
  buildData (splitLens s)

end Sys2Proof.Machine
end

