-- ==== Sys2Proof/Machine/Distance.lean ====
section
/-! DEFINITION. The distance part of a match (R310 to R316): the distance, the legality check and the
copy. -/

namespace Sys2Proof.Machine

/-- The end of a match whose distance is `dist` (R304): `MDIST`, `CheckLegal` (R315), then `CopyBack` of
`MLEN` bytes (R316). -/
def copyFrom (dist : Nat) (s : State) : Result :=
  if legalDistance dist s then
    copyBack s.reg.mlen.toNat dist { s with reg := { s.reg with mdist := BitVec.ofNat 17 dist } }
  else .next (raise .invalidBackReference { s with reg := { s.reg with mdist := BitVec.ofNat 17 dist } })

/-- The distance part of a match (R304, R310 to R312): `DSYM`, then `Distance(DSYM)`, which raises for a
symbol out of range in the mode (R311). -/
def distancePart (c x : Nat) (s : State) : Result :=
  match distanceOf s.cfg.mode c x with
  | none =>
    .next (raise .invalidBackReference { s with reg := { s.reg with dsym := BitVec.ofNat 5 c } })
  | some dist => copyFrom dist { s with reg := { s.reg with dsym := BitVec.ofNat 5 c } }

/-- `DIST.0` (R310). -/
def execDist0 (s : State) : Result :=
  distancePart 0 0 s

/-- `DIST.1` (R310). -/
def execDist1 (s : State) : Result :=
  distancePart 1 0 s

/-- `DIST.2` (R310). -/
def execDist2 (s : State) : Result :=
  distancePart 2 0 s

/-- `DIST.3` (R310). -/
def execDist3 (s : State) : Result :=
  distancePart 3 0 s

/-- `DIST.4` (R310). -/
def execDist4 (x : BitVec 1) (s : State) : Result :=
  distancePart 4 x.toNat s

/-- `DIST.5` (R310). -/
def execDist5 (x : BitVec 1) (s : State) : Result :=
  distancePart 5 x.toNat s

/-- `DIST.6` (R310). -/
def execDist6 (x : BitVec 2) (s : State) : Result :=
  distancePart 6 x.toNat s

/-- `DIST.7` (R310). -/
def execDist7 (x : BitVec 2) (s : State) : Result :=
  distancePart 7 x.toNat s

/-- `DIST.8` (R310). -/
def execDist8 (x : BitVec 3) (s : State) : Result :=
  distancePart 8 x.toNat s

/-- `DIST.9` (R310). -/
def execDist9 (x : BitVec 3) (s : State) : Result :=
  distancePart 9 x.toNat s

/-- `DIST.10` (R310). -/
def execDist10 (x : BitVec 4) (s : State) : Result :=
  distancePart 10 x.toNat s

/-- `DIST.11` (R310). -/
def execDist11 (x : BitVec 4) (s : State) : Result :=
  distancePart 11 x.toNat s

/-- `DIST.12` (R310). -/
def execDist12 (x : BitVec 5) (s : State) : Result :=
  distancePart 12 x.toNat s

/-- `DIST.13` (R310). -/
def execDist13 (x : BitVec 5) (s : State) : Result :=
  distancePart 13 x.toNat s

/-- `DIST.14` (R310). -/
def execDist14 (x : BitVec 6) (s : State) : Result :=
  distancePart 14 x.toNat s

/-- `DIST.15` (R310). -/
def execDist15 (x : BitVec 6) (s : State) : Result :=
  distancePart 15 x.toNat s

/-- `DIST.16` (R310). -/
def execDist16 (x : BitVec 7) (s : State) : Result :=
  distancePart 16 x.toNat s

/-- `DIST.17` (R310). -/
def execDist17 (x : BitVec 7) (s : State) : Result :=
  distancePart 17 x.toNat s

/-- `DIST.18` (R310). -/
def execDist18 (x : BitVec 8) (s : State) : Result :=
  distancePart 18 x.toNat s

/-- `DIST.19` (R310). -/
def execDist19 (x : BitVec 8) (s : State) : Result :=
  distancePart 19 x.toNat s

/-- `DIST.20` (R310). -/
def execDist20 (x : BitVec 9) (s : State) : Result :=
  distancePart 20 x.toNat s

/-- `DIST.21` (R310). -/
def execDist21 (x : BitVec 9) (s : State) : Result :=
  distancePart 21 x.toNat s

/-- `DIST.22` (R310). -/
def execDist22 (x : BitVec 10) (s : State) : Result :=
  distancePart 22 x.toNat s

/-- `DIST.23` (R310). -/
def execDist23 (x : BitVec 10) (s : State) : Result :=
  distancePart 23 x.toNat s

/-- `DIST.24` (R310). -/
def execDist24 (x : BitVec 11) (s : State) : Result :=
  distancePart 24 x.toNat s

/-- `DIST.25` (R310). -/
def execDist25 (x : BitVec 11) (s : State) : Result :=
  distancePart 25 x.toNat s

/-- `DIST.26` (R310). -/
def execDist26 (x : BitVec 12) (s : State) : Result :=
  distancePart 26 x.toNat s

/-- `DIST.27` (R310). -/
def execDist27 (x : BitVec 12) (s : State) : Result :=
  distancePart 27 x.toNat s

/-- `DIST.28` (R310). -/
def execDist28 (x : BitVec 13) (s : State) : Result :=
  distancePart 28 x.toNat s

/-- `DIST.29` (R310). -/
def execDist29 (x : BitVec 13) (s : State) : Result :=
  distancePart 29 x.toNat s

/-- `DIST.INVALID` (R311): symbol `30 + n` of `DEFLATE` mode raises `InvalidBackReferenceError`. -/
def execDistInvalid (n : BitVec 1) (s : State) : Result :=
  .next (raise .invalidBackReference
    { s with reg := { s.reg with dsym := BitVec.ofNat 5 (30 + n.toNat) } })

/-- `DIST.30.D64` (R312): in `DEFLATE` mode the symbol is out of range (R311). -/
def execDist30D64 (x : BitVec 14) (s : State) : Result :=
  distancePart 30 x.toNat s

/-- `DIST.31.D64` (R312): in `DEFLATE` mode the symbol is out of range (R311). -/
def execDist31D64 (x : BitVec 14) (s : State) : Result :=
  distancePart 31 x.toNat s

end Sys2Proof.Machine
end

