-- ==== Sys2Proof/Machine/HuffmanData.lean ====
section
/-! DEFINITION. Huffman block data (R300 to R322): literals, the end of block, matches. -/

namespace Sys2Proof.Machine

/-- `SYM` is the symbol decoded (R33, R300). -/
def setSym (sym : Nat) (s : State) : State :=
  { s with reg := { s.reg with sym := BitVec.ofNat 9 sym } }

/-- `LIT` (R302). -/
def execLit (b : Byte) (s : State) : Result :=
  .next (append b (setSym b.toNat s))

/-- `EOB` (R303). -/
def execEob (s : State) : Result :=
  .next (endBlock (setSym 256 s))

/-- `MATCH` (R304) with symbol `sym` and length `mlen`: `MLEN`, then the distance part. -/
def matchOp (sym mlen : Nat) (d : DistField) (s : State) : Result :=
  distancePart d.sym.toNat d.extra.toNat
    { setSym sym s with reg := { (setSym sym s).reg with mlen := BitVec.ofNat 17 mlen } }

/-- `MATCH.L257` (R304, R305). -/
def execMatchL257 (d : DistField) (s : State) : Result :=
  matchOp 257 (lengthOf .deflate 257 0) d s

/-- `MATCH.L258` (R304, R305). -/
def execMatchL258 (d : DistField) (s : State) : Result :=
  matchOp 258 (lengthOf .deflate 258 0) d s

/-- `MATCH.L259` (R304, R305). -/
def execMatchL259 (d : DistField) (s : State) : Result :=
  matchOp 259 (lengthOf .deflate 259 0) d s

/-- `MATCH.L260` (R304, R305). -/
def execMatchL260 (d : DistField) (s : State) : Result :=
  matchOp 260 (lengthOf .deflate 260 0) d s

/-- `MATCH.L261` (R304, R305). -/
def execMatchL261 (d : DistField) (s : State) : Result :=
  matchOp 261 (lengthOf .deflate 261 0) d s

/-- `MATCH.L262` (R304, R305). -/
def execMatchL262 (d : DistField) (s : State) : Result :=
  matchOp 262 (lengthOf .deflate 262 0) d s

/-- `MATCH.L263` (R304, R305). -/
def execMatchL263 (d : DistField) (s : State) : Result :=
  matchOp 263 (lengthOf .deflate 263 0) d s

/-- `MATCH.L264` (R304, R305). -/
def execMatchL264 (d : DistField) (s : State) : Result :=
  matchOp 264 (lengthOf .deflate 264 0) d s

/-- `MATCH.L265` (R304, R305). -/
def execMatchL265 (x : BitVec 1) (d : DistField) (s : State) : Result :=
  matchOp 265 (lengthOf .deflate 265 x.toNat) d s

/-- `MATCH.L266` (R304, R305). -/
def execMatchL266 (x : BitVec 1) (d : DistField) (s : State) : Result :=
  matchOp 266 (lengthOf .deflate 266 x.toNat) d s

/-- `MATCH.L267` (R304, R305). -/
def execMatchL267 (x : BitVec 1) (d : DistField) (s : State) : Result :=
  matchOp 267 (lengthOf .deflate 267 x.toNat) d s

/-- `MATCH.L268` (R304, R305). -/
def execMatchL268 (x : BitVec 1) (d : DistField) (s : State) : Result :=
  matchOp 268 (lengthOf .deflate 268 x.toNat) d s

/-- `MATCH.L269` (R304, R305). -/
def execMatchL269 (x : BitVec 2) (d : DistField) (s : State) : Result :=
  matchOp 269 (lengthOf .deflate 269 x.toNat) d s

/-- `MATCH.L270` (R304, R305). -/
def execMatchL270 (x : BitVec 2) (d : DistField) (s : State) : Result :=
  matchOp 270 (lengthOf .deflate 270 x.toNat) d s

/-- `MATCH.L271` (R304, R305). -/
def execMatchL271 (x : BitVec 2) (d : DistField) (s : State) : Result :=
  matchOp 271 (lengthOf .deflate 271 x.toNat) d s

/-- `MATCH.L272` (R304, R305). -/
def execMatchL272 (x : BitVec 2) (d : DistField) (s : State) : Result :=
  matchOp 272 (lengthOf .deflate 272 x.toNat) d s

/-- `MATCH.L273` (R304, R305). -/
def execMatchL273 (x : BitVec 3) (d : DistField) (s : State) : Result :=
  matchOp 273 (lengthOf .deflate 273 x.toNat) d s

/-- `MATCH.L274` (R304, R305). -/
def execMatchL274 (x : BitVec 3) (d : DistField) (s : State) : Result :=
  matchOp 274 (lengthOf .deflate 274 x.toNat) d s

/-- `MATCH.L275` (R304, R305). -/
def execMatchL275 (x : BitVec 3) (d : DistField) (s : State) : Result :=
  matchOp 275 (lengthOf .deflate 275 x.toNat) d s

/-- `MATCH.L276` (R304, R305). -/
def execMatchL276 (x : BitVec 3) (d : DistField) (s : State) : Result :=
  matchOp 276 (lengthOf .deflate 276 x.toNat) d s

/-- `MATCH.L277` (R304, R305). -/
def execMatchL277 (x : BitVec 4) (d : DistField) (s : State) : Result :=
  matchOp 277 (lengthOf .deflate 277 x.toNat) d s

/-- `MATCH.L278` (R304, R305). -/
def execMatchL278 (x : BitVec 4) (d : DistField) (s : State) : Result :=
  matchOp 278 (lengthOf .deflate 278 x.toNat) d s

/-- `MATCH.L279` (R304, R305). -/
def execMatchL279 (x : BitVec 4) (d : DistField) (s : State) : Result :=
  matchOp 279 (lengthOf .deflate 279 x.toNat) d s

/-- `MATCH.L280` (R304, R305). -/
def execMatchL280 (x : BitVec 4) (d : DistField) (s : State) : Result :=
  matchOp 280 (lengthOf .deflate 280 x.toNat) d s

/-- `MATCH.L281` (R304, R305). -/
def execMatchL281 (x : BitVec 5) (d : DistField) (s : State) : Result :=
  matchOp 281 (lengthOf .deflate 281 x.toNat) d s

/-- `MATCH.L282` (R304, R305). -/
def execMatchL282 (x : BitVec 5) (d : DistField) (s : State) : Result :=
  matchOp 282 (lengthOf .deflate 282 x.toNat) d s

/-- `MATCH.L283` (R304, R305). -/
def execMatchL283 (x : BitVec 5) (d : DistField) (s : State) : Result :=
  matchOp 283 (lengthOf .deflate 283 x.toNat) d s

/-- `MATCH.L284` (R304, R305). -/
def execMatchL284 (x : BitVec 5) (d : DistField) (s : State) : Result :=
  matchOp 284 (lengthOf .deflate 284 x.toNat) d s

/-- `MATCH.L285` (R304, R306): length 258. -/
def execMatchL285 (d : DistField) (s : State) : Result :=
  matchOp 285 (lengthOf .deflate 285 0) d s

/-- `MATCH.L285.D64` (R304, R307): length `3 + x`. -/
def execMatchL285D64 (x : BitVec 16) (d : DistField) (s : State) : Result :=
  matchOp 285 (lengthOf .deflate64 285 x.toNat) d s

/-- `LL.INVALID` (R308): symbol `286 + n` raises `InvalidBackReferenceError`. -/
def execLlInvalid (n : BitVec 1) (s : State) : Result :=
  .next (raise .invalidBackReference (setSym (286 + n.toNat) s))

end Sys2Proof.Machine
end

