-- ==== Sys2Proof/Machine/FixedCode.lean ====
section
/-! DEFINITION. The rows of the fixed codewords (R101): the codeword stands for a symbol, and the element
is that symbol's operation (R300). -/

namespace Sys2Proof.Machine

/-- `DataStep` of R300 for a symbol from 256 to 287 with its length extra field and distance part. -/
def symbolOp (sym x : Nat) (d : DistField) (s : State) : Result :=
  if sym = 256 then execEob s
  else if sym ≤ 285 then matchOp sym (lengthOf s.cfg.mode sym x) d s
  else execLlInvalid (BitVec.ofNat 1 sym) s

/-- `FIXED_LL.0-143` (R101): the literal `b`. -/
def execFixedLl0To143 (b : Byte) (s : State) : Result :=
  execLit b s

/-- `FIXED_LL.144-255` (R101): the literal `b`. -/
def execFixedLl144To255 (b : Byte) (s : State) : Result :=
  execLit b s

/-- `FIXED_LL.256-279` (R101): symbol `256 + n`. -/
def execFixedLl256To279 (n : BitVec 5) (x : BitVec 4) (d : DistField) (s : State) : Result :=
  symbolOp (256 + n.toNat) x.toNat d s

/-- `FIXED_LL.280-287` (R101): symbol `280 + n`. -/
def execFixedLl280To287 (n : BitVec 3) (x : BitVec 16) (d : DistField) (s : State) : Result :=
  symbolOp (280 + n.toNat) x.toNat d s

/-- `FIXED_D.0-31` (R101): the distance part with the fixed codeword of its symbol. -/
def execFixedD0To31 (d : DistField) (s : State) : Result :=
  distancePart d.sym.toNat d.extra.toNat s

end Sys2Proof.Machine
end

