-- ==== Sys2Proof/Machine/HostCalls.lean ====
section
/-! DEFINITION. The host calls (R340 to R355): `CONSTRUCT`, `READ`, `READBUF`, `CLOSE`.

A read call runs `Advance` (R344): while too few bytes are at hand the engine executes stream operations,
one a step (Sys2Proof/Machine/Step.lean), with the call in progress held in the host port.  `READ` and
`READBUF` begin such a call, and complete it as soon as `Advance` is over. -/

namespace Sys2Proof.Machine

/-! ### `CONSTRUCT` (R341) -/

/-- `CFG.DECODER` from its number; 5 to 7 are not used (R21). -/
def decoderOf (v : BitVec 3) : Option DecoderKind :=
  match v with
  | 0 => some .trieStateSymbol
  | 1 => some .trieSymbolState
  | 2 => some .genericMap
  | 3 => some .tree
  | 4 => some .table
  | _ => none

/-- `CFG.BUFFER` from its number; 5 to 7 are not used (R21). -/
def bufferOf (v : BitVec 3) : Option BufferKind :=
  match v with
  | 0 => some .cyclic
  | 1 => some .copyOnGrow
  | 2 => some .blockList
  | 3 => some .nativeStrict
  | 4 => some .nativeLenient
  | _ => none

/-- `CFG.POLICY` from its number and argument; 9 to 15 are not used, and `STEP` is at least 1 (R21,
R341). -/
def policyOf (v : BitVec 4) (arg : Nat) : Option Policy :=
  match v with
  | 0 => if arg = 0 then none else some (.arithDoubling arg)
  | 1 => some .pow2Shift
  | 2 => some .tablePaper
  | 3 => some .tableGolden
  | 4 => some .tableNatural
  | 5 => some .tablePaperPrime
  | 6 => some .tableGoldenPrime
  | 7 => some .tableNaturalPrime
  | 8 => some (.random arg)
  | _ => none

/-- `CFG.MODE` from its bit; default `DEFLATE` (R21). -/
def modeOf (v : Option (BitVec 1)) : Mode :=
  if v = some 1 then .deflate64 else .deflate

/-- A configuration with every field in its legal range (R21, R341). -/
def Cfg.legal (c : Cfg) : Bool :=
  decide (1 ≤ c.initCap ∧ 1 ≤ c.blockSize ∧ 1 ≤ c.wsize ∧ c.wsize ≤ maxWsize c.mode) &&
    (match c.policy with
    | .arithDoubling step => decide (1 ≤ step)
    | _ => true)

/-- The host's arguments as a configuration record, the defaults filled in (R10, R21); none if one of them
is outside its legal values (R341, U8). -/
def validate (raw : RawCfg) : Option Cfg :=
  match decoderOf raw.decoder, bufferOf raw.buffer, policyOf raw.policy raw.policyArg with
  | some dec, some buf, some pol =>
    let cfg : Cfg :=
      { mode := modeOf raw.mode, decoder := dec
        mapback := if raw.mapback = 1 then .slotArray else .hash
        buffer := buf, policy := pol
        initCap := raw.initCap.getD 4096
        wsize := raw.wsize.getD (maxWsize (modeOf raw.mode))
        blockSize := raw.blockSize.getD 4096 }
    if Cfg.legal cfg then some cfg else none
  | _, _, _ => none

/-- A new instance in the reset state of R55, with `CFG` and the source bound.  The OPEN parameters, the
host port and the free-value counter are not the instance's. -/
def newInstance (cfg : Cfg) (source : List Byte) (s : State) : State :=
  { State.reset with
    cfg := cfg, params := s.params, bits := Parser.start source, buf := Buf.fresh cfg
    host := s.host, free := s.free }

/-- A call is over: its response is recorded and no call is in progress. -/
def respond (r : Response) (s : State) : State :=
  { s with
    host := { s.host with call := none, want := 0, responses := s.host.responses ++ [r] } }

/-- `CONSTRUCT(cfg, source)` (R341): a new instance, or a refusal of the configuration, with which no
instance is created. -/
def execConstruct (raw : RawCfg) (source : List Byte) (s : State) : Result :=
  match validate raw with
  | none => .next (respond .refusedConfig s)
  | some cfg => .next (respond .constructed (newInstance cfg source s))

/-! ### `READ` and `READBUF` (R342, R343) -/

/-- A read call begins `Advance(want)`; a call in progress keeps its `want` (R344). -/
def beginCall (c : HostCall) (want : Nat) (s : State) : State :=
  match s.host.call with
  | some _ => s
  | none => { s with host := { s.host with call := some c, want := want } }

/-- The error kind is reported in place of bytes (R342, R347, R348): `ERR_PENDING` is cleared. -/
def reportError (s : State) : State :=
  match s.err with
  | some e => respond (.error e) { s with errPending := false }
  | none => s

/-- End-of-stream is reported (R346): `EOS_SIGNALLED` is set. -/
def reportEos (s : State) : State :=
  respond .eos { s with eosSignalled := true }

/-- The delivery of `k` bytes as a count (R343). -/
def deliver (k : Nat) (s : State) : State :=
  respond (.count (Buf.undelivered k s.buf)) (drain k s)

/-- The delivery of one byte (R342). -/
def deliverByte (b : Byte) (s : State) : State :=
  respond (.byte b) (drain 1 s)

/-- Under `ERR_DELIVERY = immediate` a fault is reported whether or not undelivered bytes exist (R347). -/
def State.errorFirst (s : State) : Bool :=
  s.phase == .failed && s.params.errDelivery == .immediate

/-- The end of a read call that finds no undelivered byte (R342, R343); in any other phase the call goes
on. -/
def finishEmpty (s : State) : State :=
  match s.phase with
  | .done => reportEos s
  | .failed => reportError s
  | .header => s
  | .stored => s
  | .fixed => s
  | .dynamic => s
  | .closed => s

/-- What `READ` does when `Advance(1)` is over (R342). -/
def finishRead (s : State) : State :=
  if s.errorFirst then reportError s
  else
    match Buf.undelivered 1 s.buf with
    | b :: _ => deliverByte b s
    | [] => finishEmpty s

/-- How many bytes a `READBUF(n)` returns with `a` at hand (R343): `min(n, a)` under `fill`; under `any` a
free value from the bytes that `Advance(want)` was to bring up to `min(n, a)` (log entry 7). -/
def readCount (s : State) (n a : Nat) : Nat :=
  match s.params.readbufCount with
  | .fill => min n a
  | .any => pickBetween (min s.host.want a) (min n a) (Config.freeNat s.free)

/-- What `READBUF(n)` does when `Advance` is over (R343). -/
def finishReadbuf (n : Nat) (s : State) : State :=
  if s.errorFirst then reportError s
  else if 1 ≤ min n s.atHand then
    deliver (readCount s n s.atHand) { s with free := s.free + 1 }
  else finishEmpty s

/-- The argument of `Advance` in a `READBUF(n)` (R343): `n` under `fill`; under `any` a free value from 1
to `n`. -/
def readWant (s : State) (n : Nat) : Nat :=
  match s.params.readbufCount with
  | .fill => n
  | .any => pickBetween 1 n (Config.freeNat s.free)

/-- `READ()` (R342): begins `Advance(1)`; while its loop must run (R344) the call stays in progress, and
then it completes.  After `CLOSE` it is refused (R351). -/
def execRead (s : State) : Result :=
  if s.phase = .closed then .refused .readAfterClose
  else
    let s1 := beginCall .read 1 s
    if s1.needsMore s1.host.want then .next s1 else .next (finishRead s1)

/-- `READBUF(n)` (R343): with `n = 0` it returns count 0 at once (D11); else it begins `Advance` and
completes when that is over.  After `CLOSE` it is refused (R351). -/
def execReadbuf (n : Nat) (s : State) : Result :=
  if s.phase = .closed then .refused .readAfterClose
  else if n = 0 then .next (respond (.count []) s)
  else
    let s1 := { beginCall (.readbuf n) (readWant s n) s with free := s.free + 1 }
    if s1.needsMore s1.host.want then .next s1 else .next (finishReadbuf n s1)

/-! ### `CLOSE` (R350) -/

/-- The storage of the run buffer and the decode tables are released (R196, R350); every other item but
`PHASE` and `ERR` holds a free value (U34, D43; log entry 3).  The source is left as it is. -/
def release (s : State) : State :=
  { s with
    phase := .closed
    bits := { s.bits with
      bitbuf := (Config.residue s.free).bitbuf, srcEos := (Config.residue s.free).srcEos }
    reg := { (Config.residue s.free).reg with
      cltab := none, lltab := none, dtab := none, fixlltab := none, fixdtab := none }
    buf := { (Config.residue s.free).buf with phys := [] }
    fixedBuilt := (Config.residue s.free).fixedBuilt
    errPending := (Config.residue s.free).errPending
    eosSignalled := (Config.residue s.free).eosSignalled
    free := s.free + 1 }

/-- `CLOSE()` (R350): in any phase; calling it again does nothing (D10). -/
def execClose (s : State) : Result :=
  if s.phase = .closed then .next (respond .closed s)
  else .next (respond .closed (release s))

end Sys2Proof.Machine
end

