-- ==== Sys2Proof/Machine/StoredBlock.lean ====
section
/-! DEFINITION. Stored blocks (R255 to R260). -/

namespace Sys2Proof.Machine

/-- The two fields of a stored header are recorded (R256). -/
def recordLen (len nlen : BitVec 16) (s : State) : State :=
  { s with reg := { s.reg with len := len, nlen := nlen } }

/-- The number of bytes to copy is set, and the block ends at once if it is 0 (R256, D40). -/
def startStored (len : BitVec 16) (s : State) : State :=
  if len = 0 then endBlock { s with reg := { s.reg with srem := len } }
  else { s with reg := { s.reg with srem := len, sub := .sData } }

/-- `STORED.HDR` (R256). -/
def execStoredHdr (len nlen : BitVec 16) (s : State) : Result :=
  if lenCheck len nlen then .next (startStored len (recordLen len nlen s))
  else .next (raise .lengthCheckMismatch (recordLen len nlen s))

/-- One stored byte fewer is left, and the block ends when none is (R258). -/
def countStored (s : State) : State :=
  if s.reg.srem - 1 = 0 then endBlock { s with reg := { s.reg with srem := s.reg.srem - 1 } }
  else { s with reg := { s.reg with srem := s.reg.srem - 1 } }

/-- `STORED.BYTE` (R258). -/
def execStoredByte (v : Byte) (s : State) : Result :=
  .next (countStored (append v s))

end Sys2Proof.Machine
end

