-- ==== Sys2Proof/Machine/Dispatch.lean ====
section
/-! DEFINITION. The dispatch of an instruction to its meaning: one arm per row of the operation table. -/

namespace Sys2Proof.Machine

def exec (i : Instr) (s : State) : Host.Outcome State Fault Refusal :=
  match i with
  | .bhdr final type => Sys2Proof.Machine.execBhdr final type s
  | .blkStored final => Sys2Proof.Machine.execBlkStored final s
  | .blkFixed final => Sys2Proof.Machine.execBlkFixed final s
  | .blkDynamic final => Sys2Proof.Machine.execBlkDynamic final s
  | .blkReserved final => Sys2Proof.Machine.execBlkReserved final s
  | .storedHdr len nlen => Sys2Proof.Machine.execStoredHdr len nlen s
  | .storedByte v => Sys2Proof.Machine.execStoredByte v s
  | .dynCounts hlit hdist hclen => Sys2Proof.Machine.execDynCounts hlit hdist hclen s
  | .dynCllen len => Sys2Proof.Machine.execDynCllen len s
  | .dynClbuild => Sys2Proof.Machine.execDynClbuild s
  | .clLen0 => Sys2Proof.Machine.execClLen0 s
  | .clLen1 => Sys2Proof.Machine.execClLen1 s
  | .clLen2 => Sys2Proof.Machine.execClLen2 s
  | .clLen3 => Sys2Proof.Machine.execClLen3 s
  | .clLen4 => Sys2Proof.Machine.execClLen4 s
  | .clLen5 => Sys2Proof.Machine.execClLen5 s
  | .clLen6 => Sys2Proof.Machine.execClLen6 s
  | .clLen7 => Sys2Proof.Machine.execClLen7 s
  | .clLen8 => Sys2Proof.Machine.execClLen8 s
  | .clLen9 => Sys2Proof.Machine.execClLen9 s
  | .clLen10 => Sys2Proof.Machine.execClLen10 s
  | .clLen11 => Sys2Proof.Machine.execClLen11 s
  | .clLen12 => Sys2Proof.Machine.execClLen12 s
  | .clLen13 => Sys2Proof.Machine.execClLen13 s
  | .clLen14 => Sys2Proof.Machine.execClLen14 s
  | .clLen15 => Sys2Proof.Machine.execClLen15 s
  | .clRep16 x => Sys2Proof.Machine.execClRep16 x s
  | .clZrep17 x => Sys2Proof.Machine.execClZrep17 x s
  | .clZrep18 x => Sys2Proof.Machine.execClZrep18 x s
  | .dynBuild => Sys2Proof.Machine.execDynBuild s
  | .lit b => Sys2Proof.Machine.execLit b s
  | .eob => Sys2Proof.Machine.execEob s
  | .matchL257 d => Sys2Proof.Machine.execMatchL257 d s
  | .matchL258 d => Sys2Proof.Machine.execMatchL258 d s
  | .matchL259 d => Sys2Proof.Machine.execMatchL259 d s
  | .matchL260 d => Sys2Proof.Machine.execMatchL260 d s
  | .matchL261 d => Sys2Proof.Machine.execMatchL261 d s
  | .matchL262 d => Sys2Proof.Machine.execMatchL262 d s
  | .matchL263 d => Sys2Proof.Machine.execMatchL263 d s
  | .matchL264 d => Sys2Proof.Machine.execMatchL264 d s
  | .matchL265 x d => Sys2Proof.Machine.execMatchL265 x d s
  | .matchL266 x d => Sys2Proof.Machine.execMatchL266 x d s
  | .matchL267 x d => Sys2Proof.Machine.execMatchL267 x d s
  | .matchL268 x d => Sys2Proof.Machine.execMatchL268 x d s
  | .matchL269 x d => Sys2Proof.Machine.execMatchL269 x d s
  | .matchL270 x d => Sys2Proof.Machine.execMatchL270 x d s
  | .matchL271 x d => Sys2Proof.Machine.execMatchL271 x d s
  | .matchL272 x d => Sys2Proof.Machine.execMatchL272 x d s
  | .matchL273 x d => Sys2Proof.Machine.execMatchL273 x d s
  | .matchL274 x d => Sys2Proof.Machine.execMatchL274 x d s
  | .matchL275 x d => Sys2Proof.Machine.execMatchL275 x d s
  | .matchL276 x d => Sys2Proof.Machine.execMatchL276 x d s
  | .matchL277 x d => Sys2Proof.Machine.execMatchL277 x d s
  | .matchL278 x d => Sys2Proof.Machine.execMatchL278 x d s
  | .matchL279 x d => Sys2Proof.Machine.execMatchL279 x d s
  | .matchL280 x d => Sys2Proof.Machine.execMatchL280 x d s
  | .matchL281 x d => Sys2Proof.Machine.execMatchL281 x d s
  | .matchL282 x d => Sys2Proof.Machine.execMatchL282 x d s
  | .matchL283 x d => Sys2Proof.Machine.execMatchL283 x d s
  | .matchL284 x d => Sys2Proof.Machine.execMatchL284 x d s
  | .matchL285 d => Sys2Proof.Machine.execMatchL285 d s
  | .matchL285D64 x d => Sys2Proof.Machine.execMatchL285D64 x d s
  | .llInvalid n => Sys2Proof.Machine.execLlInvalid n s
  | .dist0 => Sys2Proof.Machine.execDist0 s
  | .dist1 => Sys2Proof.Machine.execDist1 s
  | .dist2 => Sys2Proof.Machine.execDist2 s
  | .dist3 => Sys2Proof.Machine.execDist3 s
  | .dist4 x => Sys2Proof.Machine.execDist4 x s
  | .dist5 x => Sys2Proof.Machine.execDist5 x s
  | .dist6 x => Sys2Proof.Machine.execDist6 x s
  | .dist7 x => Sys2Proof.Machine.execDist7 x s
  | .dist8 x => Sys2Proof.Machine.execDist8 x s
  | .dist9 x => Sys2Proof.Machine.execDist9 x s
  | .dist10 x => Sys2Proof.Machine.execDist10 x s
  | .dist11 x => Sys2Proof.Machine.execDist11 x s
  | .dist12 x => Sys2Proof.Machine.execDist12 x s
  | .dist13 x => Sys2Proof.Machine.execDist13 x s
  | .dist14 x => Sys2Proof.Machine.execDist14 x s
  | .dist15 x => Sys2Proof.Machine.execDist15 x s
  | .dist16 x => Sys2Proof.Machine.execDist16 x s
  | .dist17 x => Sys2Proof.Machine.execDist17 x s
  | .dist18 x => Sys2Proof.Machine.execDist18 x s
  | .dist19 x => Sys2Proof.Machine.execDist19 x s
  | .dist20 x => Sys2Proof.Machine.execDist20 x s
  | .dist21 x => Sys2Proof.Machine.execDist21 x s
  | .dist22 x => Sys2Proof.Machine.execDist22 x s
  | .dist23 x => Sys2Proof.Machine.execDist23 x s
  | .dist24 x => Sys2Proof.Machine.execDist24 x s
  | .dist25 x => Sys2Proof.Machine.execDist25 x s
  | .dist26 x => Sys2Proof.Machine.execDist26 x s
  | .dist27 x => Sys2Proof.Machine.execDist27 x s
  | .dist28 x => Sys2Proof.Machine.execDist28 x s
  | .dist29 x => Sys2Proof.Machine.execDist29 x s
  | .distInvalid n => Sys2Proof.Machine.execDistInvalid n s
  | .dist30D64 x => Sys2Proof.Machine.execDist30D64 x s
  | .dist31D64 x => Sys2Proof.Machine.execDist31D64 x s
  | .fixedLl0To143 b => Sys2Proof.Machine.execFixedLl0To143 b s
  | .fixedLl144To255 b => Sys2Proof.Machine.execFixedLl144To255 b s
  | .fixedLl256To279 n x d => Sys2Proof.Machine.execFixedLl256To279 n x d s
  | .fixedLl280To287 n x d => Sys2Proof.Machine.execFixedLl280To287 n x d s
  | .fixedD0To31 d => Sys2Proof.Machine.execFixedD0To31 d s
  | .construct cfg source => Sys2Proof.Machine.execConstruct cfg source s
  | .read => Sys2Proof.Machine.execRead s
  | .readbuf n => Sys2Proof.Machine.execReadbuf n s
  | .close => Sys2Proof.Machine.execClose s

end Sys2Proof.Machine
end

