-- ==== Sys2Proof/Machine/Fetch.lean ====
section
/-! DEFINITION. What a step does around an instruction: reading the element at `BP`, taking the host's
next call, and placing the element of a table word where the next step reads it. -/

namespace Sys2Proof.Machine

/-- The element at `BP`, in the format that the state selects (R120). -/
def fetchElem (s : State) : Fetched Instr :=
  decodeElem s.ctx s.bits

/-- The state in which the instruction of an element executes: the parser is past the element, and
`IPOS` at the start of the operation is kept for the bound of R412. -/
def atElement (p : Parser) (s : State) : State :=
  { s with bits := p, opStart := s.bits.ipos }

/-- The fault of an element that cannot be read for no reason of the stream. -/
def stopOf : Reject → Fault
  | .noElement => .noElement
  | .tableAbsent => .tableAbsent
  | .brokenTable => .brokenTable

/-- The instruction of a host call (R120). -/
def callInstr : HostCall → Instr
  | .construct cfg source => .construct cfg source
  | .read => .read
  | .readbuf n => .readbuf n
  | .close => .close

/-- The host makes the next of its calls. -/
def takeCall (rest : List HostCall) (s : State) : State :=
  { s with host := { s.host with calls := rest } }

/-- The registers in which the element of a table word is the next one: the tables that it needs are built,
in the state's configuration. -/
def wordRegs (s : State) (nbits w : Nat) : Regs :=
  let data := wordIsData nbits w
  { s.reg with
    sub := (tableWordCtx nbits w).sub, clidx := 0, lidx := 0, prev := 0, prevValid := false
    cltab := if data || wordIsHeader nbits w then s.reg.cltab
      else buildTable s.cfg s.params .cl (onlyLens w) maxBitsCl
    lltab := if data then buildTable s.cfg s.params .ll (onlyLens (wordLlSym nbits w)) maxBitsData
      else s.reg.lltab
    dtab := if data then buildTable s.cfg s.params .d (onlyLens (wordDSym nbits w)) maxBitsData
      else s.reg.dtab }

/-- The state with the element of a table word as its next element (log entry 10): the bytes of the word
at the source's next position, the format selected, its tables built, and a read call in progress that
needs one byte more than is at hand. -/
def placeWord (nbits w : Nat) (s : State) : State :=
  { s with
    phase := (tableWordCtx nbits w).phase
    reg := wordRegs s nbits w
    bits := { s.bits with
      input := s.bits.input.take s.bits.ipos ++
        List.replicate (s.bits.ipos - s.bits.input.length) 0 ++ tableWordBytes nbits w
      bitbuf := [], srcEos := false }
    host := { s.host with call := some .read, want := s.atHand + 1 } }

end Sys2Proof.Machine
end

