-- ==== Sys2Proof/Machine/Step.lean ====
section
/-! DEFINITION. One step of the machine: a stream operation while the read call in progress needs more
bytes (R344), otherwise the completion of that call, otherwise the next call of the host. -/

namespace Sys2Proof.Machine

/-- One stream operation (R15, R120): the element at `BP` is read and its instruction executed.  An error
kind raised while the element is read is taken as `raise` says (R410). -/
def streamStep (s : State) : Host.Outcome State Fault Refusal :=
  match fetchElem s with
  | .ok i p => exec i (atElement p s)
  | .raised e p => .next (raise e (atElement p s))
  | .rejected r => .fault (stopOf r)

/-- One step.  With a read call in progress: a stream operation as long as `Advance` must go on, then the
call's completion.  With none: the host's next call; an engine without a call does nothing (R429). -/
def step (s : State) : Host.Outcome State Fault Refusal :=
  match s.host.call with
  | some c => if s.needsMore s.host.want then streamStep s else exec (callInstr c) s
  | none =>
    match s.host.calls with
    | [] => .next s
    | c :: rest => exec (callInstr c) (takeCall rest s)

/-- The state `s` with the element of a table word where `step` reads its next element (log entry 10). -/
def State.withFetchWord (s : State) (nbits w : Nat) : State :=
  placeWord nbits w s

end Sys2Proof.Machine
end

