-- ==== Sys2Proof/Safety.lean ====
section
/-! DEFINITION. What counts as a safe state and a safe run, in the terms that the statements use: the
coherence of the parser, the retained region, the registers that a phase needs, the two physical layouts'
agreement with the output, and the views of a state that no strategy may change. -/

namespace Sys2Proof

open Sys2Proof.Machine

/-! ### The parser -/

/-- The bits that the stream still holds from `BP` on: those buffered, then those of the bytes not yet
taken. -/
def Parser.upcoming (p : Parser) : Bits :=
  p.bitbuf ++ streamBits (p.input.drop p.ipos)

/-- `BITBUF` holds exactly the stream bits from `BP` to `8*IPOS` (R22, R23), and the end of the source is
known only where it is (R24). -/
def Parser.Coherent (p : Parser) : Prop :=
  p.ipos ≤ p.input.length ∧ p.bitcnt ≤ 8 * p.ipos ∧
    p.upcoming = (streamBits p.input).drop p.bp ∧ (p.srcEos = true → p.ipos = p.input.length)

/-- Between operations at most 7 bits are buffered (R23, R222). -/
def Parser.Lazy (p : Parser) : Prop :=
  p.bitcnt ≤ 7

/-- Two reads agree: the same value and the same parser, the same error kind, or the same stop (R153).
The parser after a fault is unspecified (R412). -/
def Fetched.Agrees {α : Type} : Fetched α → Fetched α → Prop
  | .ok a p, .ok b q => a = b ∧ p = q
  | .raised e _, .raised f _ => e = f
  | .rejected r, .rejected t => r = t
  | _, _ => False

namespace Machine

/-! ### The run buffer -/

/-- The region that must stay readable is retained, in every layout (R48, R74, R187, R192, R193). -/
def Buf.Retains (wsize : Nat) (b : Buf) : Prop :=
  b.drained ≤ Buf.total b ∧
    b.rlo ≤ retainFrom wsize b.drained (Buf.total b) ∧
    b.base ≤ retainFrom wsize b.drained (Buf.total b)

/-- The physical storage holds every byte of the retained region at the index that the layout gives it
(R49, R190, R192, R193). -/
def Buf.LaidOut (kind : BufferKind) (b : Buf) : Prop :=
  (kind = .cyclic → 1 ≤ b.cap ∧ Buf.total b - b.rlo ≤ b.cap) ∧
    (kind ≠ .cyclic → b.base ≤ b.rlo) ∧
    ∀ p, b.rlo ≤ p → p < Buf.total b → Buf.physRead kind b p = b.out[p]?

/-! ### The invariant of a session -/

/-- `t` is a table that `Build` makes from an array of `n` lengths of at most `maxl` (R140). -/
def TableOk (s : State) (which : Which) (n maxl : Nat) (t : Option Table) : Prop :=
  ∃ lens, lens.length = n ∧ (∀ l ∈ lens, l ≤ maxl) ∧ t.isSome ∧
    buildTable s.cfg s.params which lens maxl = t

/-- `LLTAB` and `DTAB` are tables for the data of a block (R42). -/
def DataTablesOk (s : State) : Prop :=
  TableOk s .ll 288 15 s.reg.lltab ∧ TableOk s .d 32 15 s.reg.dtab

/-- What the registers hold in each (`PHASE`, `SUB`) that selects an operation (R120). -/
def PhaseOk (s : State) : Prop :=
  match s.phase with
  | .header => True
  | .stored => s.reg.sub = .sHdr ∨ (s.reg.sub = .sData ∧ s.reg.srem ≠ 0)
  | .fixed => s.reg.sub = .fData ∧ DataTablesOk s
  | .dynamic =>
    match s.reg.sub with
    | .dCounts => True
    | .dCllens => s.reg.clidx ≤ ncl s.reg.hclen
    | .dLens => TableOk s .cl 19 7 s.reg.cltab ∧ s.reg.lidx < lensWanted s
    | .dBuild => s.reg.lidx = lensWanted s
    | .dData => DataTablesOk s
    | .sHdr => False
    | .sData => False
    | .fData => False
  | .done => True
  | .failed => True
  | .closed => True

/-- The arrays have their sizes (R40, R41), and the fixed tables exist when `FIXED_BUILT` says so (R34). -/
def ArraysOk (s : State) : Prop :=
  s.reg.cll.length = 19 ∧ s.reg.lens.length = 320 ∧ s.reg.ll.length = 288 ∧ s.reg.dl.length = 32 ∧
    (s.fixedBuilt = true →
      TableOk s .ll 288 15 s.reg.fixlltab ∧ TableOk s .d 32 15 s.reg.fixdtab)

/-- `PHASE = FAILED` exactly when `ERR` is not 0 and the session is not closed (R28), and `ERR` is at most
5 (R401). -/
def StatusOk (s : State) : Prop :=
  (s.phase ≠ .closed → (s.phase = .failed ↔ s.errReg ≠ 0)) ∧ s.errReg ≤ 5

/-- A call in progress is a read call that wants at least one byte (R342 to R344). -/
def CallOk (s : State) : Prop :=
  match s.host.call with
  | none => True
  | some .read => s.phase ≠ .closed ∧ s.host.want = 1
  | some (.readbuf n) => s.phase ≠ .closed ∧ 1 ≤ s.host.want ∧ s.host.want ≤ n
  | some (.construct _ _) => False
  | some .close => False

/-- The invariant of a session: what holds at reset and after every step.  After a fault the registers are
unspecified (R412), and after `CLOSE` the buffer is too (U34), so each part is claimed where it is
defined. -/
structure State.Inv (s : State) : Prop where
  cfg_legal : Cfg.legal s.cfg = true
  status : StatusOk s
  call : CallOk s
  phys_wf : Memory.wf s.buf.phys = true
  retains : s.phase ≠ .closed → Buf.Retains s.cfg.wsize s.buf
  parser : s.phase ≠ .failed → s.phase ≠ .closed → s.bits.Coherent ∧ s.bits.Lazy
  arrays : s.phase ≠ .failed → s.phase ≠ .closed → ArraysOk s
  phases : PhaseOk s

/-! ### What the host has been given -/

/-- The bytes that the responses have delivered since the last construction (R72, R475). -/
def deliveredBytes (rs : List Response) : List Byte :=
  rs.foldl (fun acc r =>
    match r with
    | .byte b => acc ++ [b]
    | .count bs => acc ++ bs
    | .constructed => []
    | .eos => acc
    | .error _ => acc
    | .closed => acc
    | .refusedConfig => acc) []

/-- The bytes handed to the host are a prefix of `OUT`, as long as `DRAINED` says (R47, R347). -/
def DeliveredOk (s : State) : Prop :=
  s.phase ≠ .closed → deliveredBytes s.host.responses = s.buf.out.take s.buf.drained

/-! ### What no buffer strategy may change -/

/-- Two states that differ at most in the buffer strategy, its policy, its capacities and its hidden
storage (R188). -/
def SameView (s t : State) : Prop :=
  t = { s with
    cfg := { s.cfg with
      buffer := t.cfg.buffer, policy := t.cfg.policy
      initCap := t.cfg.initCap, blockSize := t.cfg.blockSize }
    buf := { t.buf with out := s.buf.out, drained := s.buf.drained } }

/-- Two outcomes that differ at most so. -/
def SameOutcome : Result → Result → Prop
  | .next s, .next t => SameView s t
  | .fault f, .fault g => f = g
  | .refused f, .refused g => f = g
  | _, _ => False

/-! ### Whole runs -/

/-- Stream operations until the stream is done or has failed (R345), at most `fuel` of them. -/
def runStream : Nat → State → Result
  | 0, s => .next s
  | fuel + 1, s =>
    if running s.phase then
      match streamStep s with
      | .next t => runStream fuel t
      | .fault f => .fault f
      | .refused r => .refused r
    else .next s

/-- The stream bits not yet consumed. -/
def State.bitsLeft (s : State) : Nat :=
  s.bits.upcoming.length

/-! ### Rows by shape

Each function picks the rows of one shape and gives their operands, so that a statement about the shape is
about every row of it. -/

/-- The block-header rows with their final flag and block type (R91, R92, R241). -/
def headerRow : Instr → Option (Bool × BitVec 2)
  | .bhdr final type => some (final, type)
  | .blkStored final => some (final, 0)
  | .blkFixed final => some (final, 1)
  | .blkDynamic final => some (final, 2)
  | .blkReserved final => some (final, 3)
  | _ => none

/-- The code-length rows that give one length (R277). -/
def clLenRow : Instr → Option (BitVec 4)
  | .clLen0 => some 0
  | .clLen1 => some 1
  | .clLen2 => some 2
  | .clLen3 => some 3
  | .clLen4 => some 4
  | .clLen5 => some 5
  | .clLen6 => some 6
  | .clLen7 => some 7
  | .clLen8 => some 8
  | .clLen9 => some 9
  | .clLen10 => some 10
  | .clLen11 => some 11
  | .clLen12 => some 12
  | .clLen13 => some 13
  | .clLen14 => some 14
  | .clLen15 => some 15
  | _ => none

/-- The rows that run zero lengths, with their repeat counts (R279, R280). -/
def zeroRunRow : Instr → Option Nat
  | .clZrep17 x => some (3 + x.toNat)
  | .clZrep18 x => some (11 + x.toNat)
  | _ => none

/-- The rows of a literal, with its byte (R302, R101). -/
def literalRow : Instr → Option Byte
  | .lit b => some b
  | .fixedLl0To143 b => some b
  | .fixedLl144To255 b => some b
  | _ => none

/-- The rows of the end of a block (R303, R101). -/
def eobRow : Instr → Bool
  | .eob => true
  | .fixedLl256To279 n _ _ => n == 0
  | _ => false

/-- The rows of a match in a mode: the length symbol, `MLEN` and the distance field (R304 to R307, R101). -/
def matchRow (mode : Mode) : Instr → Option (Nat × Nat × DistField)
  | .matchL257 d => some (257, 3, d)
  | .matchL258 d => some (258, 4, d)
  | .matchL259 d => some (259, 5, d)
  | .matchL260 d => some (260, 6, d)
  | .matchL261 d => some (261, 7, d)
  | .matchL262 d => some (262, 8, d)
  | .matchL263 d => some (263, 9, d)
  | .matchL264 d => some (264, 10, d)
  | .matchL265 x d => some (265, 11 + x.toNat, d)
  | .matchL266 x d => some (266, 13 + x.toNat, d)
  | .matchL267 x d => some (267, 15 + x.toNat, d)
  | .matchL268 x d => some (268, 17 + x.toNat, d)
  | .matchL269 x d => some (269, 19 + x.toNat, d)
  | .matchL270 x d => some (270, 23 + x.toNat, d)
  | .matchL271 x d => some (271, 27 + x.toNat, d)
  | .matchL272 x d => some (272, 31 + x.toNat, d)
  | .matchL273 x d => some (273, 35 + x.toNat, d)
  | .matchL274 x d => some (274, 43 + x.toNat, d)
  | .matchL275 x d => some (275, 51 + x.toNat, d)
  | .matchL276 x d => some (276, 59 + x.toNat, d)
  | .matchL277 x d => some (277, 67 + x.toNat, d)
  | .matchL278 x d => some (278, 83 + x.toNat, d)
  | .matchL279 x d => some (279, 99 + x.toNat, d)
  | .matchL280 x d => some (280, 115 + x.toNat, d)
  | .matchL281 x d => some (281, 131 + x.toNat, d)
  | .matchL282 x d => some (282, 163 + x.toNat, d)
  | .matchL283 x d => some (283, 195 + x.toNat, d)
  | .matchL284 x d => some (284, 227 + x.toNat, d)
  | .matchL285 d => some (285, 258, d)
  | .matchL285D64 x d => some (285, 3 + x.toNat, d)
  | .fixedLl256To279 n x d =>
    if 1 ≤ n.toNat ∧ n.toNat < 24 then some (256 + n.toNat, lengthOf mode (256 + n.toNat) x.toNat, d)
    else none
  | .fixedLl280To287 n x d =>
    if n.toNat < 6 then some (280 + n.toNat, lengthOf mode (280 + n.toNat) x.toNat, d) else none
  | _ => none

/-- The rows of a distance part: the distance symbol and its extra field (R310, R312, R101). -/
def distPartRow : Instr → Option (Nat × Nat)
  | .dist0 => some (0, 0)
  | .dist1 => some (1, 0)
  | .dist2 => some (2, 0)
  | .dist3 => some (3, 0)
  | .dist4 x => some (4, x.toNat)
  | .dist5 x => some (5, x.toNat)
  | .dist6 x => some (6, x.toNat)
  | .dist7 x => some (7, x.toNat)
  | .dist8 x => some (8, x.toNat)
  | .dist9 x => some (9, x.toNat)
  | .dist10 x => some (10, x.toNat)
  | .dist11 x => some (11, x.toNat)
  | .dist12 x => some (12, x.toNat)
  | .dist13 x => some (13, x.toNat)
  | .dist14 x => some (14, x.toNat)
  | .dist15 x => some (15, x.toNat)
  | .dist16 x => some (16, x.toNat)
  | .dist17 x => some (17, x.toNat)
  | .dist18 x => some (18, x.toNat)
  | .dist19 x => some (19, x.toNat)
  | .dist20 x => some (20, x.toNat)
  | .dist21 x => some (21, x.toNat)
  | .dist22 x => some (22, x.toNat)
  | .dist23 x => some (23, x.toNat)
  | .dist24 x => some (24, x.toNat)
  | .dist25 x => some (25, x.toNat)
  | .dist26 x => some (26, x.toNat)
  | .dist27 x => some (27, x.toNat)
  | .dist28 x => some (28, x.toNat)
  | .dist29 x => some (29, x.toNat)
  | .dist30D64 x => some (30, x.toNat)
  | .dist31D64 x => some (31, x.toNat)
  | .fixedD0To31 d => some (d.sym.toNat, d.extra.toNat)
  | _ => none

/-- The rows of a symbol without a meaning (R308, R311, R101). -/
def invalidRow : Instr → Bool
  | .llInvalid _ => true
  | .distInvalid _ => true
  | .fixedLl280To287 n _ _ => decide (6 ≤ n.toNat)
  | _ => false

/-- The rows that carry a literal/length codeword of the block's own code (R300). -/
def dataRow (mode : Mode) : Instr → Bool
  | .lit _ => true
  | .eob => true
  | .llInvalid _ => true
  | .fixedLl256To279 _ _ _ => false
  | .fixedLl280To287 _ _ _ => false
  | i => (matchRow mode i).isSome

/-- The rows that carry a codeword of the code-length code (R276). -/
def clRow : Instr → Bool
  | .clRep16 _ => true
  | .clZrep17 _ => true
  | .clZrep18 _ => true
  | i => (clLenRow i).isSome

/-- How a row of a fixed-width format is read (R91 to R95). -/
def fixedWidthReader : Instr → Option (Parser → Fetched Instr)
  | .blkStored _ => some readHeader
  | .blkFixed _ => some readHeader
  | .blkDynamic _ => some readHeader
  | .blkReserved _ => some readHeader
  | .storedHdr _ _ => some readStoredHdr
  | .storedByte _ => some readStoredByte
  | .dynCounts _ _ _ => some readCounts
  | .dynCllen _ => some readCllen
  | _ => none

/-! ### What an operation leaves -/

/-- A fault of kind `e` (R410, R412): the status, nothing appended, the bound on `IPOS`, and every item
that R412 does not name unchanged. -/
def Raised (e : ErrKind) (s t : State) : Prop :=
  t.phase = .failed ∧ t.err = some e ∧ t.errReg = errCode e ∧ t.errPending = true ∧
    min s.opStart s.bits.ipos ≤ t.bits.ipos ∧ t.bits.ipos ≤ s.bits.ipos ∧
    t = { s with
      phase := t.phase, err := t.err, errPending := t.errPending
      bits := { s.bits with bitbuf := t.bits.bitbuf, ipos := t.bits.ipos }
      reg := t.reg, free := t.free }

/-- `bytes` are appended at `TOTAL`, nothing is delivered, and every byte that stays retained reads as
before (R182). -/
def Stores (bytes : List Byte) (s t : State) : Prop :=
  t.buf.out = s.buf.out ++ bytes ∧ t.buf.drained = s.buf.drained ∧
    ∀ p, s.buf.rlo ≤ p → t.buf.rlo ≤ p → p < s.total → Buf.memRead t.buf p = Buf.memRead s.buf p

/-- The phase after the end of a block (R245). -/
def afterBlock (s : State) : Phase :=
  if s.reg.bfinal then .done else .header

/-- The sub-phase after `n` code lengths exist (R276, R282). -/
def subAfterLens (s : State) (n : Nat) : Sub :=
  if n = lensWanted s then .dBuild else s.reg.sub

/-- The response of a call that is over. -/
def answered (r : Response) (s : State) : HostPort :=
  { s.host with call := none, want := 0, responses := s.host.responses ++ [r] }

/-- `i` can complete a read call: no call is in progress, or the call in progress is the one of `i` and its
`Advance` is over (R344). -/
def callOver (i : Instr) (s : State) : Prop :=
  s.host.call = none ∨
    ∃ c, s.host.call = some c ∧ callInstr c = i ∧ s.needsMore s.host.want = false

/-- A read call: `READ`, or `READBUF(n)` with `n` at least 1 (R342, R343). -/
def readCall : Instr → Bool
  | .read => true
  | .readbuf n => decide (1 ≤ n)
  | _ => false

end Machine

end Sys2Proof
end

