-- ==== Sys2Proof/Certificates/Slice0/Obligations.lean ====
section
/-! DEFINITION. The statements for the provers.  Each docstring says what the statement claims and names the rules
it rests on. -/

open Sys2Proof Sys2Proof.Machine

/-- BHDR, BLK.STORED and BLK.DYNAMIC complete in every state: BFINAL and BTYPE are recorded, the phase
is STORED with S_HDR, or DYNAMIC with D_COUNTS and the three block tables discarded, and nothing
else changes. (R241, R242, R244, R26) -/
def Obligations.HeaderEntersBlock : Prop :=
  ∀ (i : Instr) (final : Bool) (s : State),
    (headerRow i = some (final, 0) →
      exec i s = .next { s with
        phase := .stored
        reg := { s.reg with bfinal := final, btype := 0, sub := .sHdr } }) ∧
    (headerRow i = some (final, 2) →
      exec i s = .next { s with
        phase := .dynamic
        reg := { s.reg with
          bfinal := final, btype := 2, sub := .dCounts, cltab := none, lltab := none, dtab := none } })

/-- BHDR with type 1 and BLK.FIXED complete in every state: LLTAB and DTAB designate the fixed tables,
which are kept if FIXED_BUILT was set and otherwise built, complete, with longest lengths 9 and 5;
the length arrays are the fixed alphabets; nothing else changes. (R241, R243, R146, R34, R41, R42) -/
def Obligations.HeaderEntersFixed : Prop :=
  ∀ (i : Instr) (final : Bool) (s : State), headerRow i = some (final, 1) →
    ∃ t, exec i s = .next t ∧
      t = { s with
        phase := .fixed, fixedBuilt := true
        reg := { s.reg with
          bfinal := final, btype := 1, sub := .fData
          lltab := t.reg.fixlltab, dtab := t.reg.fixdtab
          fixlltab := t.reg.fixlltab, fixdtab := t.reg.fixdtab, ll := t.reg.ll, dl := t.reg.dl } } ∧
      t.reg.ll.map BitVec.toNat = fixedLiteralLengthAlphabet ∧
      t.reg.dl.map BitVec.toNat = fixedDistanceAlphabet ∧
      (s.fixedBuilt = true → t.reg.fixlltab = s.reg.fixlltab ∧ t.reg.fixdtab = s.reg.fixdtab) ∧
      (s.fixedBuilt = false →
        ∃ tl td, t.reg.fixlltab = some tl ∧ t.reg.fixdtab = some td ∧
          tl.kind = .complete ∧ tl.maxbits = 9 ∧ td.kind = .complete ∧ td.maxbits = 5 ∧
          tl.store = buildStore s.cfg fixedLiteralLengthAlphabet ∧
          td.store = buildStore s.cfg fixedDistanceAlphabet)

/-- BHDR with type 3 and BLK.RESERVED complete, where no error is recorded yet, by raising
InvalidBlockTypeError: the phase is FAILED, ERR is 2, nothing is appended, and only what R412 names
may change besides. (R246, R241, R410, R412) -/
def Obligations.ReservedTypeFaults : Prop :=
  ∀ (i : Instr) (final : Bool) (s : State), headerRow i = some (final, 3) → s.err = none →
    ∃ t, exec i s = .next t ∧ Raised .invalidBlockType s t

/-- STORED.HDR with LEN + NLEN = 0xFFFF completes in every state: LEN and NLEN are recorded and SREM is
LEN; with LEN = 0 the block ends at once, DONE if BFINAL else HEADER; otherwise SUB is S_DATA;
nothing else changes. (R256, R245, R30) -/
def Obligations.StoredHeaderAccepts : Prop :=
  ∀ (len nlen : BitVec 16) (s : State), len.toNat + nlen.toNat = 65535 →
    ∃ t, exec (.storedHdr len nlen) s = .next t ∧
      (len = 0 → t = { s with
        phase := afterBlock s, reg := { s.reg with len := len, nlen := nlen, srem := 0 } }) ∧
      (len ≠ 0 → t = { s with
        reg := { s.reg with len := len, nlen := nlen, srem := len, sub := .sData } })

/-- STORED.HDR with LEN + NLEN other than 0xFFFF, where no error is recorded yet, raises
LengthCheckMismatchError and appends nothing. (R256, R410, R412) -/
def Obligations.StoredHeaderMismatchFaults : Prop :=
  ∀ (len nlen : BitVec 16) (s : State), len.toNat + nlen.toNat ≠ 65535 → s.err = none →
    ∃ t, exec (.storedHdr len nlen) s = .next t ∧ Raised .lengthCheckMismatch s t

/-- STORED.BYTE completes in every state: the byte is appended at TOTAL, SREM falls by 1, and the block
ends, DONE if BFINAL else HEADER, exactly when SREM was 1; besides the run buffer nothing else
changes, and every byte that stays retained reads as before. (R258, R182, R245) -/
def Obligations.StoredByteCopies : Prop :=
  ∀ (v : Byte) (s : State),
    ∃ t, exec (.storedByte v) s = .next t ∧ Stores [v] s t ∧
      t = { s with
        phase := if s.reg.srem = 1 then afterBlock s else s.phase
        reg := { s.reg with srem := s.reg.srem - 1 }, buf := t.buf, free := t.free }

/-- DYN.COUNTS completes in every state: HLIT, HDIST and HCLEN are recorded, all 19 entries of CLL and
CLIDX are 0, SUB is D_CLLENS, and nothing else changes. (R271, R94) -/
def Obligations.CountsRecorded : Prop :=
  ∀ (hlit hdist : BitVec 5) (hclen : BitVec 4) (s : State),
    ∃ t, exec (.dynCounts hlit hdist hclen) s = .next t ∧
      t = { s with
        reg := { s.reg with
          hlit := hlit, hdist := hdist, hclen := hclen, cll := t.reg.cll, clidx := 0
          sub := .dCllens } } ∧
      t.reg.cll.length = 19 ∧ ∀ l ∈ t.reg.cll, l = 0

/-- DYN.CLLEN completes in every state: while CLIDX is below 19 the entry CLL[CLORDER[CLIDX]] holds the
length and every other entry is unchanged; CLIDX grows by 1, and nothing else changes. (R273, R95,
R40) -/
def Obligations.ClLengthWritten : Prop :=
  ∀ (len : BitVec 3) (s : State),
    ∃ t, exec (.dynCllen len) s = .next t ∧
      t = { s with reg := { s.reg with cll := t.reg.cll, clidx := s.reg.clidx + 1 } } ∧
      (∀ c, clOrder[s.reg.clidx]? = some c → c < s.reg.cll.length → t.reg.cll[c]? = some len) ∧
      (∀ c, clOrder[s.reg.clidx]? ≠ some c → t.reg.cll[c]? = s.reg.cll[c]?)

/-- DYN.CLBUILD, where the health check passes CLL with maximum length 7, completes: CLTAB has the kind
of the check, the longest length of the array and the representation of the configured strategy;
LIDX, PREV and PREV_VALID are 0, SUB is D_LENS, and nothing else changes. (R275, R140, R43) -/
def Obligations.ClTableBuilt : Prop :=
  ∀ (s : State) (k : Kind),
    checkHealth s.params.emptyDistCode .cl (s.reg.cll.map BitVec.toNat) 7 = some k →
    ∃ t tab, exec .dynClbuild s = .next t ∧
      t = { s with
        reg := { s.reg with
          cltab := some tab, lidx := 0, prevValid := false, prev := 0, sub := .dLens } } ∧
      tab = { kind := k, maxbits := maxLen (s.reg.cll.map BitVec.toNat)
              store := buildStore s.cfg (s.reg.cll.map BitVec.toNat) }

/-- Each of CL.LEN.0 to CL.LEN.15 completes in every state: LENS[LIDX] is the symbol and every other
entry is unchanged, LIDX grows by 1, PREV is the symbol and PREV_VALID is set, SUB is D_BUILD
exactly if that completes NLIT + NDIST lengths, and nothing else changes. (R277, R276, R282, R32) -/
def Obligations.ClLengthProduced : Prop :=
  ∀ (i : Instr) (v : BitVec 4) (s : State), clLenRow i = some v →
    ∃ t, exec i s = .next t ∧
      t = { s with
        reg := { s.reg with
          lens := t.reg.lens, lidx := s.reg.lidx + 1, prev := v, prevValid := true
          sub := subAfterLens s (s.reg.lidx + 1) } } ∧
      t.reg.lens.length = s.reg.lens.length ∧
      (s.reg.lidx < s.reg.lens.length → t.reg.lens[s.reg.lidx]? = some v) ∧
      (∀ k, k ≠ s.reg.lidx → t.reg.lens[k]? = s.reg.lens[k]?)

/-- CL.REP16 that does not overrun, with a previous length or under REP16_AT_START = repeat_zero,
completes: the next 3 + x entries of LENS are PREV (0 where there is none), LIDX grows by 3 + x,
PREV_VALID is unchanged, SUB is D_BUILD exactly if the lengths are complete, and nothing else
changes. (R278, R96, R276, R282) -/
def Obligations.RepeatPrevious : Prop :=
  ∀ (x : BitVec 2) (s : State) (v : BitVec 4),
    s.reg.lidx + (3 + x.toNat) ≤ lensWanted s →
    (s.reg.prevValid = true ∧ v = s.reg.prev ∨
      s.reg.prevValid = false ∧ s.params.rep16AtStart = .repeatZero ∧ v = 0) →
    ∃ t, exec (.clRep16 x) s = .next t ∧
      t = { s with
        reg := { s.reg with
          lens := t.reg.lens, lidx := s.reg.lidx + (3 + x.toNat), prev := v
          sub := subAfterLens s (s.reg.lidx + (3 + x.toNat)) } } ∧
      t.reg.lens.length = s.reg.lens.length ∧
      (∀ k, s.reg.lidx ≤ k → k < s.reg.lidx + (3 + x.toNat) → k < s.reg.lens.length →
        t.reg.lens[k]? = some v) ∧
      (∀ k, k < s.reg.lidx ∨ s.reg.lidx + (3 + x.toNat) ≤ k → t.reg.lens[k]? = s.reg.lens[k]?)

/-- CL.ZREP17 (3 to 10 times) and CL.ZREP18 (11 to 138 times) that do not overrun complete: that many
entries of LENS from LIDX on are 0, LIDX grows by as many, PREV is 0 and PREV_VALID set, SUB is
D_BUILD exactly if the lengths are complete, and nothing else changes. (R279, R280, R96, R276, R282) -/
def Obligations.ZeroRun : Prop :=
  ∀ (i : Instr) (r : Nat) (s : State), zeroRunRow i = some r → s.reg.lidx + r ≤ lensWanted s →
    ∃ t, exec i s = .next t ∧
      t = { s with
        reg := { s.reg with
          lens := t.reg.lens, lidx := s.reg.lidx + r, prev := 0, prevValid := true
          sub := subAfterLens s (s.reg.lidx + r) } } ∧
      t.reg.lens.length = s.reg.lens.length ∧
      (∀ k, s.reg.lidx ≤ k → k < s.reg.lidx + r → k < s.reg.lens.length →
        t.reg.lens[k]? = some 0) ∧
      (∀ k, k < s.reg.lidx ∨ s.reg.lidx + r ≤ k → t.reg.lens[k]? = s.reg.lens[k]?)

/-- Where no error is recorded yet: CL.ZREP17, CL.ZREP18 and CL.REP16 that would produce more than NLIT
+ NDIST lengths raise IncompleteCodeError, and so does CL.REP16 with no previous length under
REP16_AT_START = fault, whatever its extra field. (R278, R279, R280, R281, R410) -/
def Obligations.RepeatFaults : Prop :=
  ∀ (s : State), s.err = none →
    (∀ (i : Instr) (r : Nat), zeroRunRow i = some r → lensWanted s < s.reg.lidx + r →
      ∃ t, exec i s = .next t ∧ Raised .incompleteCode s t) ∧
    (∀ x : BitVec 2, lensWanted s < s.reg.lidx + (3 + x.toNat) →
      ∃ t, exec (.clRep16 x) s = .next t ∧ Raised .incompleteCode s t) ∧
    (∀ x : BitVec 2, s.reg.prevValid = false → s.params.rep16AtStart = .fault →
      ∃ t, exec (.clRep16 x) s = .next t ∧ Raised .incompleteCode s t)

/-- DYN.BUILD, where the health check passes both arrays, completes: LL[s] is LENS[s] below NLIT and 0
up to 287, DL[c] is LENS[NLIT + c] below NDIST and 0 up to 31, LLTAB and DTAB are built from them
with maximum length 15, CLTAB is discarded, SUB is D_DATA, and nothing else changes. (R284, R140,
R41, R43) -/
def Obligations.DataTablesBuilt : Prop :=
  ∀ (s : State) (ll dl : List (BitVec 4)) (kl kd : Kind),
    ll.length = 288 → dl.length = 32 →
    (∀ k < 288, ll[k]? = some (if k < nlit s.reg.hlit then s.reg.lens.getD k 0 else 0)) →
    (∀ c < 32, dl[c]? =
      some (if c < ndist s.reg.hdist then s.reg.lens.getD (nlit s.reg.hlit + c) 0 else 0)) →
    checkHealth s.params.emptyDistCode .ll (ll.map BitVec.toNat) 15 = some kl →
    checkHealth s.params.emptyDistCode .d (dl.map BitVec.toNat) 15 = some kd →
    exec .dynBuild s = .next { s with
      reg := { s.reg with
        ll := ll, dl := dl, cltab := none, sub := .dData
        lltab := some { kind := kl, maxbits := maxLen (ll.map BitVec.toNat)
                        store := buildStore s.cfg (ll.map BitVec.toNat) }
        dtab := some { kind := kd, maxbits := maxLen (dl.map BitVec.toNat)
                       store := buildStore s.cfg (dl.map BitVec.toNat) } } }

/-- An array with lengths of at most MAXL and a used symbol is complete if the sum of 2^(MAXL - len)
over its used symbols is 2^MAXL, else degenerate if its one used symbol has length 1, else it fails;
an array without a used symbol is empty if it is the distance array and EMPTY_DIST_CODE =
accept_fault_on_use, else it fails. Where no error is recorded yet: DYN.CLBUILD raises
IncompleteCodeError if the check fails CLL, and DYN.BUILD if it fails the literal/length array or
the distance array; nothing is appended. (R275, R284, R138, R139, R140, R410) -/
def Obligations.UnhealthyCodeFaults : Prop :=
  (∀ (e : EmptyDistCode) (which : Which) (lens : List Nat) (maxl : Nat), (∀ l ∈ lens, l ≤ maxl) →
    ((∀ l ∈ lens, l = 0) → checkHealth e which lens maxl =
      if which = .d ∧ e = .acceptFaultOnUse then some .empty else none) ∧
    ((∃ l ∈ lens, l ≠ 0) → checkHealth e which lens maxl =
      if ((lens.filter fun l => l != 0).map fun l => 2 ^ (maxl - l)).sum = 2 ^ maxl then some .complete
      else if (lens.filter fun l => l != 0) = [1] then some .degenerate
      else none)) ∧
  ∀ (s : State), s.err = none →
    (checkHealth s.params.emptyDistCode .cl (s.reg.cll.map BitVec.toNat) 7 = none →
      ∃ t, exec .dynClbuild s = .next t ∧ Raised .incompleteCode s t) ∧
    (checkHealth s.params.emptyDistCode .ll ((dynLl s.reg).map BitVec.toNat) 15 = none ∨
        checkHealth s.params.emptyDistCode .d ((dynDl s.reg).map BitVec.toNat) 15 = none →
      ∃ t, exec .dynBuild s = .next t ∧ Raised .incompleteCode s t)

/-- LIT and the two fixed literal rows complete in every state: the byte is appended at TOTAL, SYM holds
the symbol, besides the run buffer nothing else changes, and every byte that stays retained reads as
before. (R302, R182, R300, R33) -/
def Obligations.LiteralAppends : Prop :=
  ∀ (i : Instr) (b : Byte) (s : State), literalRow i = some b →
    ∃ t, exec i s = .next t ∧ Stores [b] s t ∧
      t = { s with reg := { s.reg with sym := b.setWidth 9 }, buf := t.buf, free := t.free }

/-- EOB, and the fixed row of symbol 256, complete in every state: the phase is DONE if BFINAL is set
and HEADER otherwise, SYM is 256, and nothing else changes: the bit position, the output and every
table stay. (R303, R245, R240) -/
def Obligations.EndOfBlock : Prop :=
  ∀ (i : Instr) (s : State), eobRow i = true →
    exec i s = .next { s with
      phase := if s.reg.bfinal = true then .done else .header
      reg := { s.reg with sym := 256 } }

/-- Every row of a match (length symbols 257 to 285 in both meanings, and the fixed rows of length
symbols), whose distance is at most TOTAL and WSIZE in a state that retains its window, completes:
for k below MLEN the byte at TOTAL + k is the byte at TOTAL - MDIST + (k mod MDIST), so an
overlapping copy repeats; the bytes before stay; SYM, MLEN, DSYM and MDIST hold the operands;
nothing is delivered; besides the run buffer nothing else changes. (R304, R305, R306, R307, R310,
R312, R315, R316, R183) -/
def Obligations.MatchCopies : Prop :=
  ∀ (i : Instr) (s : State) (sym len dist : Nat) (d : DistField),
    matchRow s.cfg.mode i = some (sym, len, d) →
    distanceOf s.cfg.mode d.sym.toNat d.extra.toNat = some dist →
    dist ≤ s.total → dist ≤ s.cfg.wsize → Buf.Retains s.cfg.wsize s.buf →
    ∃ t bytes, exec i s = .next t ∧ Stores bytes s t ∧ bytes.length = len ∧
      (∀ k < len, bytes[k]? = s.buf.out[s.total - dist + k % dist]?) ∧
      Buf.Retains t.cfg.wsize t.buf ∧
      t = { s with
        reg := { s.reg with
          sym := BitVec.ofNat 9 sym, mlen := BitVec.ofNat 17 len
          dsym := d.sym, mdist := BitVec.ofNat 17 dist }
        buf := t.buf, free := t.free }

/-- DIST.0 to DIST.29, DIST.30.D64, DIST.31.D64 and the fixed distance row, whose distance in the mode
is at most TOTAL and WSIZE in a state that retains its window, complete: MLEN bytes are appended,
each the byte MDIST places back; DSYM and MDIST hold the operands; besides the run buffer nothing
else changes. That such a row executes on its own, as the end of the match that R304 gives, is the
model's form (log entry 14). (R304, R310, R312, R315, R316, R183, R101) -/
def Obligations.DistancePartCopies : Prop :=
  ∀ (i : Instr) (s : State) (c x dist : Nat),
    distPartRow i = some (c, x) → distanceOf s.cfg.mode c x = some dist →
    dist ≤ s.total → dist ≤ s.cfg.wsize → Buf.Retains s.cfg.wsize s.buf →
    ∃ t bytes, exec i s = .next t ∧ Stores bytes s t ∧ bytes.length = s.reg.mlen.toNat ∧
      (∀ k < s.reg.mlen.toNat, bytes[k]? = s.buf.out[s.total - dist + k % dist]?) ∧
      t = { s with
        reg := { s.reg with dsym := BitVec.ofNat 5 c, mdist := BitVec.ofNat 17 dist }
        buf := t.buf, free := t.free }

/-- Where no error is recorded yet, every match row and every distance row whose distance exceeds TOTAL
or WSIZE, or whose distance symbol has no meaning in the mode, raises InvalidBackReferenceError and
appends nothing, in every buffer strategy. That a distance row on its own makes the check and raises
is the model's form (log entry 14). (R315, R311, R304, R184, R410) -/
def Obligations.IllegalDistanceFaults : Prop :=
  ∀ (s : State), s.err = none →
    (∀ (i : Instr) (sym len : Nat) (d : DistField),
      matchRow s.cfg.mode i = some (sym, len, d) →
      (∀ dist, distanceOf s.cfg.mode d.sym.toNat d.extra.toNat = some dist →
        s.total < dist ∨ s.cfg.wsize < dist) →
      ∃ t, exec i s = .next t ∧ Raised .invalidBackReference s t) ∧
    (∀ (i : Instr) (c x : Nat), distPartRow i = some (c, x) →
      (∀ dist, distanceOf s.cfg.mode c x = some dist → s.total < dist ∨ s.cfg.wsize < dist) →
      ∃ t, exec i s = .next t ∧ Raised .invalidBackReference s t)

/-- LL.INVALID (symbols 286 and 287), DIST.INVALID (distance symbols 30 and 31 of DEFLATE mode) and the
fixed rows of 286 and 287 complete, where no error is recorded yet, by raising
InvalidBackReferenceError. (R308, R311, R103, R410) -/
def Obligations.InvalidSymbolFaults : Prop :=
  ∀ (i : Instr) (s : State), invalidRow i = true → s.err = none →
    ∃ t, exec i s = .next t ∧ Raised .invalidBackReference s t

/-- For length symbols 257 to 284 and distance symbols 0 to 29, in both modes, the extra bits and the
base are those of the closed forms; symbol 285 is the fixed 258 or has 16 bits and base 3; distance
symbols 30 and 31 have 14 bits and bases 32769 and 49153 in DEFLATE64 mode and no row in DEFLATE
mode. (R98, R99, R100) -/
def Obligations.OperandTables : Prop :=
  (∀ mode, ∀ k < 28, lengthRow mode (257 + k) = some
      (if k < 8 then (0, k + 3) else (k / 4 - 1, (4 + k % 4) * 2 ^ (k / 4 - 1) + 3))) ∧
  (∀ mode, ∀ c < 30, distRow mode c = some
      (if c < 4 then (0, c + 1) else (c / 2 - 1, (2 + c % 2) * 2 ^ (c / 2 - 1) + 1))) ∧
  lengthRow .deflate 285 = some (0, 258) ∧ lengthRow .deflate64 285 = some (16, 3) ∧
  distRow .deflate 30 = none ∧ distRow .deflate 31 = none ∧
  distRow .deflate64 30 = some (14, 32769) ∧ distRow .deflate64 31 = some (14, 49153)

/-- CONSTRUCT completes in every state: with every field legal, CFG holds the arguments with the
defaults of the mode filled in, the parser is at the first bit of the source, the buffer is empty
with capacity INIT_CAP, the phase is HEADER and every register as at reset; with an unused
enumeration value, a zero INIT_CAP, BLOCK_SIZE or STEP, or a WSIZE outside the range of the mode,
nothing but the response changes. That CONSTRUCT in any phase takes the place of the instance
before, that the OPEN parameters, the response list and the free-value counter are kept, and how the
arguments of the host are numbers of R21, is the model's choice (log entry 16). (R341, R55, R440,
R21) -/
def Obligations.ConstructChecks : Prop :=
  ∀ (raw : RawCfg) (source : List Byte) (s : State),
    (∀ (dec : DecoderKind) (bk : BufferKind) (pol : Policy),
      decoderOf raw.decoder = some dec → bufferOf raw.buffer = some bk →
      policyOf raw.policy raw.policyArg = some pol →
      (∀ n, raw.initCap = some n → 1 ≤ n) → (∀ n, raw.blockSize = some n → 1 ≤ n) →
      (∀ n, raw.wsize = some n → 1 ≤ n ∧ n ≤ maxWsize (modeOf raw.mode)) →
      ∃ t, exec (.construct raw source) s = .next t ∧
        t.cfg.mode = modeOf raw.mode ∧ t.cfg.decoder = dec ∧ t.cfg.buffer = bk ∧ t.cfg.policy = pol ∧
        t.cfg.mapback = (if raw.mapback = 1 then .slotArray else .hash) ∧
        t.cfg.initCap = raw.initCap.getD 4096 ∧ t.cfg.blockSize = raw.blockSize.getD 4096 ∧
        t.cfg.wsize = raw.wsize.getD (maxWsize (modeOf raw.mode)) ∧
        t = { State.reset with
          cfg := t.cfg, params := s.params
          bits := { input := source, ipos := 0, bitbuf := [], srcEos := false }
          buf := { State.reset.buf with cap := t.cfg.initCap, refCap := t.buf.refCap, rng := t.buf.rng }
          host := answered .constructed s, free := s.free } ∧
        (∀ seed, pol = .random seed → t.buf.rng = some seed)) ∧
    (decoderOf raw.decoder = none ∨ bufferOf raw.buffer = none ∨
        policyOf raw.policy raw.policyArg = none ∨ raw.initCap = some 0 ∨ raw.blockSize = some 0 ∨
        (∃ n, raw.wsize = some n ∧ (n = 0 ∨ maxWsize (modeOf raw.mode) < n)) →
      exec (.construct raw source) s = .next { s with host := answered .refusedConfig s })

/-- READ completes in every state that is not closed and has a byte at hand, with no call in progress or
with this call in progress and its Advance over, unless a fault is to be reported first
(ERR_DELIVERY = immediate): it answers OUT[DRAINED], DRAINED grows by 1, no call is in progress, no
step runs and nothing else changes. That the call in progress stands in the state and its end is a
step is the model's choice (log entry 15). (R342, R344, R185, R347) -/
def Obligations.ReadDelivers : Prop :=
  ∀ (s : State) (b : Byte), s.phase ≠ .closed → callOver .read s →
    s.buf.out[s.buf.drained]? = some b →
    ¬(s.phase = .failed ∧ s.params.errDelivery = .immediate) →
    exec .read s = .next { s with
      buf := { s.buf with drained := s.buf.drained + 1 }, host := answered (.byte b) s }

/-- READBUF(n) with n at least 1 and some byte at hand completes, where with no call in progress n bytes
are at hand or the phase is DONE or FAILED, or where this call is in progress and its Advance is
over, and no fault is to be reported first: it answers a count k from 1 to min(n, bytes at hand)
with the next k bytes, DRAINED grows by k, no call is in progress, and besides the free-value
counter nothing else changes; under READBUF_COUNT = fill, k is min(n, bytes at hand). That the call
in progress stands in the state and its end is a step is the model's choice (log entry 15). (R343,
R344, R185, R347) -/
def Obligations.ReadbufDelivers : Prop :=
  ∀ (s : State) (n : Nat), s.phase ≠ .closed → 1 ≤ n → 1 ≤ s.atHand →
    (s.host.call = none ∧ (n ≤ s.atHand ∨ running s.phase = false) ∨
      s.host.call = some (.readbuf n) ∧ 1 ≤ s.host.want ∧ s.needsMore s.host.want = false) →
    ¬(s.phase = .failed ∧ s.params.errDelivery = .immediate) →
    ∃ t k, exec (.readbuf n) s = .next t ∧ 1 ≤ k ∧ k ≤ min n s.atHand ∧
      (s.params.readbufCount = .fill → k = min n s.atHand) ∧
      t = { s with
        buf := { s.buf with drained := s.buf.drained + k }, free := t.free
        host := answered (.count ((s.buf.out.drop s.buf.drained).take k)) s }

/-- In a running phase with no call in progress: READ with no byte at hand begins Advance(1); READBUF(n)
with fewer than n bytes at hand begins Advance(want), with want above the bytes at hand and at most
n, n under READBUF_COUNT = fill, or, under any alone, answers a count k from 1 to the bytes at hand
with the next k bytes. A call that begins Advance answers nothing yet, and besides the free-value
counter nothing else changes. READBUF(0) answers count 0 in every phase but CLOSED, without a step.
That the call in progress stands in the state with its want, its steps still to come, is the model's
choice (log entry 15); which want and k are taken under any is a free value (log entry 7). (R342,
R343, R344) -/
def Obligations.ReadAdvances : Prop :=
  ∀ (s : State),
    (running s.phase = true → s.host.call = none →
      (s.atHand = 0 →
        exec .read s = .next { s with host := { s.host with call := some .read, want := 1 } }) ∧
      ∀ n, s.atHand < n → ∃ t, exec (.readbuf n) s = .next t ∧
        ((∃ want, s.atHand < want ∧ want ≤ n ∧ (s.params.readbufCount = .fill → want = n) ∧
            t = { s with
              free := t.free, host := { s.host with call := some (.readbuf n), want := want } }) ∨
          (s.params.readbufCount = .any ∧ ∃ k, 1 ≤ k ∧ k ≤ s.atHand ∧
            t = { s with
              buf := { s.buf with drained := s.buf.drained + k }, free := t.free
              host := answered (.count ((s.buf.out.drop s.buf.drained).take k)) s }))) ∧
    (s.phase ≠ .closed → exec (.readbuf 0) s = .next { s with host := answered (.count []) s })

/-- READ and READBUF(n) with n at least 1, at DONE with no byte at hand, with no call in progress or
with this call in progress, answer end-of-stream, however often: EOS_SIGNALLED is set, no call is in
progress, no bit is consumed, no byte is taken, and besides the response and the free-value counter
nothing else changes. That the call in progress stands in the state and its end is a step is the
model's choice (log entry 15). (R346, R342, R343, R344, R29) -/
def Obligations.EndOfStreamReported : Prop :=
  ∀ (i : Instr) (s : State), readCall i = true → s.phase = .done → callOver i s →
    s.atHand = 0 →
    ∃ t, exec i s = .next t ∧
      t = { s with eosSignalled := true, host := answered .eos s, free := t.free }

/-- READ and READBUF(n) with n at least 1, in FAILED with no call in progress or with this call in
progress (as in the call during which the fault occurs), answer the error kind if no byte is at hand
or ERR_DELIVERY is immediate, however often: ERR_PENDING is cleared, ERR stays, no call is in
progress, no bit is consumed, and besides the response and the free-value counter nothing else
changes. That the call in progress stands in the state and its end is a step is the model's choice
(log entry 15). (R347, R348, R342, R343, R344, R28) -/
def Obligations.FaultReported : Prop :=
  ∀ (i : Instr) (e : ErrKind) (s : State), readCall i = true → s.phase = .failed → s.err = some e →
    callOver i s → (s.atHand = 0 ∨ s.params.errDelivery = .immediate) →
    ∃ t, exec i s = .next t ∧
      t = { s with errPending := false, host := answered (.error e) s, free := t.free }

/-- CLOSE completes in every state: the phase is CLOSED, the tables and the physical storage are
released, CFG, ERR and the position in the source stay, the call returns; in CLOSED nothing changes
but the response. (R350, R196, R411) -/
def Obligations.CloseReleases : Prop :=
  ∀ s : State,
    (s.phase = .closed → exec .close s = .next { s with host := answered .closed s }) ∧
    (s.phase ≠ .closed → ∃ t, exec .close s = .next t ∧ t.phase = .closed ∧
      t.reg.cltab = none ∧ t.reg.lltab = none ∧ t.reg.dtab = none ∧ t.reg.fixlltab = none ∧
      t.reg.fixdtab = none ∧ t.buf.phys = [] ∧
      t.cfg = s.cfg ∧ t.params = s.params ∧ t.err = s.err ∧ t.bits.input = s.bits.input ∧
      t.bits.ipos = s.bits.ipos ∧ t.host = answered .closed s)

/-- In CLOSED, READ and READBUF(n) for every n are refused by name: the calls are outside the contract.
That the model refuses them is its choice (log entry 12). (R351, R350) -/
def Obligations.ReadAfterCloseRefused : Prop :=
  ∀ s : State, s.phase = .closed →
    exec .read s = .refused .readAfterClose ∧ ∀ n, exec (.readbuf n) s = .refused .readAfterClose

/-- While a read call in progress needs more bytes and the element at BP decodes to a well-formed
instruction, the step is exec of it, with the parser past the element and the byte position of its
start kept; if the reading raises an error kind, the step is that fault. (R15, R120, R344) -/
def Obligations.StepRunsDecoded : Prop :=
  ∀ (s : State) (c : HostCall) (p : Parser), s.host.call = some c →
    s.needsMore s.host.want = true →
    (∀ i : Instr, i.wf s.cfg.mode = true → decodeElem s.ctx s.bits = .ok i p →
      step s = exec i { s with bits := p, opStart := s.bits.ipos }) ∧
    (∀ e : ErrKind, decodeElem s.ctx s.bits = .raised e p → s.err = none →
      ∃ t, step s = .next t ∧ Raised e { s with bits := p, opStart := s.bits.ipos } t)

/-- A read call in progress that needs no more bytes is completed by exec of the call; with no call in
progress the step is exec of the host's next call, taken from its list; with none left the machine
stays as it is. That a call is completed in a step of its own is the model's choice (log entry 15),
and that the host's calls stand in a list of the state too (log entry 1). (R344, R340, R429) -/
def Obligations.StepServesHost : Prop :=
  ∀ s : State,
    (s.host.call = some .read → s.needsMore s.host.want = false → step s = exec .read s) ∧
    (∀ n, s.host.call = some (.readbuf n) → s.needsMore s.host.want = false →
      step s = exec (.readbuf n) s) ∧
    (∀ c rest, s.host.call = none → s.host.calls = c :: rest →
      step s = exec (callInstr c) { s with host := { s.host with calls := rest } }) ∧
    (s.host.call = none → s.host.calls = [] → step s = .next s)

/-- The header byte 0x4B is a final Fixed header; 05 00 FA FF a stored header; the first bits of 0D C0
81 after the header are the counts 1, 0, 14, and the third 3-bit code-length-code length after them
is 1; the fixed codeword of literal 0x61, then symbol 263 with distance symbol 0, then symbol 256,
are the elements of the stream 4B 84 03 00 after its header. (R91, R93, R94, R95, R101) -/
def Obligations.DecodedWords : Prop :=
  (∃ q, readHeader (Parser.start [0x4B]) = .ok (.blkFixed true) q ∧ q.bp = 3) ∧
  (∃ q, readStoredHdr (Parser.start [0x05, 0x00, 0xFA, 0xFF]) = .ok (.storedHdr 0x0005 0xFFFA) q) ∧
  (∃ q, readCounts { input := [0x0D, 0xC0, 0x81], ipos := 1, bitbuf := (byteBits 0x0D).drop 3
                     srcEos := false } = .ok (.dynCounts 1 0 14) q ∧ q.bp = 17) ∧
  (∃ q r t, readCllen { input := [0x0D, 0xC0, 0x81, 0x00], ipos := 3, bitbuf := (byteBits 0x81).drop 1
                        srcEos := false } = .ok (.dynCllen 0) q ∧
    readCllen q = .ok (.dynCllen 0) r ∧ readCllen r = .ok (.dynCllen 1) t ∧ t.bp = 26) ∧
  (∃ q r t, readFixedRow .deflate
      { input := [0x4B, 0x84, 0x03, 0x00], ipos := 1, bitbuf := (byteBits 0x4B).drop 3, srcEos := false } =
      .ok (.fixedLl0To143 0x61) q ∧
    readFixedRow .deflate q = .ok (.fixedLl256To279 7 0 { sym := 0, extra := 0 }) r ∧
    readFixedRow .deflate r = .ok (.fixedLl256To279 0 0 { sym := 0, extra := 0 }) t ∧ t.bp = 30)

/-- From a coherent parser with at most 7 bits buffered, for n from 0 to 16: where the stream still
holds n bits, GetBits answers their number, first bit in bit 0, BP advances by n, the parser stays
coherent and as lazy, so that IPOS is ceil(BP/8); where it holds fewer, it raises
UnexpectedEndOfStreamError; with n = 0 it answers 0 and leaves the parser as it was. (R226) -/
def Obligations.GetBitsReadsField : Prop :=
  ∀ (p : Parser) (n : Nat), p.Coherent → p.Lazy → n ≤ 16 →
    (n ≤ p.upcoming.length → ∃ q, p.getBits n = .ok (bitsToNat (p.upcoming.take n)) q ∧
      q.upcoming = p.upcoming.drop n ∧ q.bp = p.bp + n ∧ q.input = p.input ∧ q.Coherent ∧ q.Lazy ∧
      q.ipos = (q.bp + 7) / 8) ∧
    (p.upcoming.length < n →
      ∃ q, p.getBits n = .raised .unexpectedEndOfStream q ∧ q.input = p.input ∧ q.bp = p.bp) ∧
    p.getBits 0 = .ok 0 p

/-- AlignByte drops BITCNT mod 8 bits; from a coherent parser it advances BP by (8 - BP mod 8) mod 8, to
a multiple of 8, takes no byte from the source, and the parser stays coherent; with at most 7 bits
buffered it leaves none. (R227) -/
def Obligations.AlignSkipsToByte : Prop :=
  ∀ p : Parser, p.Coherent →
    p.alignByte.bitbuf = p.bitbuf.drop (p.bitcnt % 8) ∧
      p.alignByte.bp = p.bp + (8 - p.bp % 8) % 8 ∧ p.alignByte.bp % 8 = 0 ∧
      p.alignByte.ipos = p.ipos ∧ p.alignByte.input = p.input ∧ p.alignByte.srcEos = p.srcEos ∧
      p.alignByte.Coherent ∧ (p.Lazy → p.alignByte.bitbuf = [])

/-- For every array, a symbol has a codeword exactly if its length is not 0; its number is the first
codeword of its length, which is twice the first one a bit shorter with the symbols of that shorter
length, plus the number of earlier symbols of its length; its codeword string has its length and is
the binary digits of its number from the most significant down, and no two used symbols share a
length and a number; for an array that passes the health check with lengths of at most MAXL, no
codeword string is a prefix of another symbol's. (R133, R131, R132, R138) -/
def Obligations.CodewordsPrefixFree : Prop :=
  ∀ lens : List Nat,
    (∀ (s len : Nat), lens[s]? = some len → (canonicalConstruct lens)[s]? =
      some (if len = 0 then none else some (firstCode lens len + (lens.take s).count len))) ∧
    (∀ b : Nat, firstCode lens (b + 1) =
      2 * (firstCode lens b + if b = 0 then 0 else lens.count b)) ∧ firstCode lens 0 = 0 ∧
    (∀ (s len cw : Nat), lens[s]? = some len → (canonicalConstruct lens)[s]? = some (some cw) →
      len ≠ 0 ∧ ∃ w, codewordOf lens s = some w ∧ w.length = len ∧
        ∀ k < len, w[k]? = some (cw.testBit (len - 1 - k))) ∧
    (∀ (s r len cw : Nat), s ≠ r → lens[s]? = some len → lens[r]? = some len →
      (canonicalConstruct lens)[s]? = some (some cw) →
      (canonicalConstruct lens)[r]? ≠ some (some cw)) ∧
    (∀ (e : EmptyDistCode) (which : Which) (maxl : Nat) (k : Kind), (∀ l ∈ lens, l ≤ maxl) →
      checkHealth e which lens maxl = some k →
      ∀ (s r : Nat) (w v : Bits), s ≠ r → codewordOf lens s = some w → codewordOf lens r = some v →
        ¬w <+: v)

/-- An array with lengths of at most MAXL, MAXL at least 1, is classified degenerate exactly if one
symbol has length 1 and every other length is 0; its codeword is the bit 0, and reading the bit 1
with the table built from it in any strategy raises IncompleteCodeError. (R138, R139, R152) -/
def Obligations.DegenerateCode : Prop :=
  ∀ (cfg : Cfg) (params : Params) (which : Which) (lens : List Nat) (maxl : Nat), 1 ≤ maxl →
    (∀ l ∈ lens, l ≤ maxl) →
    (checkHealth params.emptyDistCode which lens maxl = some .degenerate ↔
      ∃ s, lens[s]? = some 1 ∧ ∀ r, r ≠ s → lens.getD r 0 = 0) ∧
    (∀ (t : Table) (s : Nat), buildTable cfg params which lens maxl = some t → t.kind = .degenerate →
      lens[s]? = some 1 → codewordOf lens s = some [false] ∧
        ∀ (p : Parser) (rest : Bits), p.Coherent → p.upcoming = true :: rest →
          ∃ q, decodeSym t p = .raised .incompleteCode q)

/-- The canonical construction gives literal/length symbols 0 to 143 the 8-bit codewords 0x30 + s, 144
to 255 the 9-bit codewords 0x190 + s - 144, 256 to 279 the 7-bit codewords s - 256, 280 to 287 the
8-bit codewords 0xC0 + s - 280, and distance symbol c the 5-bit codeword c. (R101, R144, R145) -/
def Obligations.FixedCodewords : Prop :=
  (∀ s < 288, codewordOf fixedLiteralLengthAlphabet s = some
      (if s < 144 then codeBits 8 (0x30 + s)
       else if s < 256 then codeBits 9 (0x190 + s - 144)
       else if s < 280 then codeBits 7 (s - 256)
       else codeBits 8 (0xC0 + s - 280))) ∧
  (∀ c < 32, codewordOf fixedDistanceAlphabet c = some (codeBits 5 c))

/-- For every array of at most 288 lengths of at most MAXL that passes the health check, Decode with the
binary tree gives the same symbol with the same parser, or the same error kind, as the abstract
Decode over the set of codewords, from every coherent parser. (R150, R151, R152, R153, R160) -/
def Obligations.TreeMeetsContract : Prop :=
  ∀ (cfg : Cfg) (params : Params) (which : Which) (lens : List Nat) (maxl : Nat) (t : Table)
    (p : Parser), cfg.decoder = .tree →
    lens.length ≤ 288 → (∀ l ∈ lens, l ≤ maxl) → p.Coherent →
    buildTable cfg params which lens maxl = some t →
    (decodeSym t p).Agrees (contractDecode lens p)

/-- For every array of at most 288 lengths of at most MAXL that passes the health check, Decode with the
trie in either key order over either map backing, and in the generic map, gives the same symbol with
the same parser, or the same error kind, as the abstract Decode over the set of codewords, from
every coherent parser. (R150, R151, R152, R153, R155, R156, R157, R158) -/
def Obligations.MapsMeetContract : Prop :=
  ∀ (cfg : Cfg) (params : Params) (which : Which) (lens : List Nat) (maxl : Nat) (t : Table)
    (p : Parser), (cfg.decoder = .trieStateSymbol ∨ cfg.decoder = .trieSymbolState ∨ cfg.decoder = .genericMap) →
    lens.length ≤ 288 → (∀ l ∈ lens, l ≤ maxl) → p.Coherent →
    buildTable cfg params which lens maxl = some t →
    (decodeSym t p).Agrees (contractDecode lens p)

/-- For every array of at most 288 lengths of at most MAXL that passes the health check, Decode with the
lookup table gives the same symbol with the same parser, or the same error kind, as the abstract
Decode over the set of codewords, from every coherent parser. (R150, R151, R152, R153, R163, R164) -/
def Obligations.TableMeetsContract : Prop :=
  ∀ (cfg : Cfg) (params : Params) (which : Which) (lens : List Nat) (maxl : Nat) (t : Table)
    (p : Parser), cfg.decoder = .table →
    lens.length ≤ 288 → (∀ l ∈ lens, l ≤ maxl) → p.Coherent →
    buildTable cfg params which lens maxl = some t →
    (decodeSym t p).Agrees (contractDecode lens p)

/-- For the block headers, the stored header with its pad, the stored byte, the dynamic counts and the
code-length-code length, with every operand at every value: where the stream holds the encoded bits
and then any rest, the reader answers the element with exactly the rest left. (R91, R92, R93, R94,
R95, R62) -/
def Obligations.FixedWidthRoundTrip : Prop :=
  ∀ (c : EncCtx) (i : Instr) (rd : Parser → Fetched Instr) (p : Parser) (w rest : Bits),
    fixedWidthReader i = some rd → encode c i = some w → c.pad = p.bitcnt →
    p.Coherent → p.Lazy → p.upcoming = w ++ rest →
    ∃ q, rd p = .ok i q ∧ q.upcoming = rest ∧ q.Coherent ∧ q.Lazy

/-- For the rows of the fixed literal/length codewords and of the fixed distance codewords, well formed
in the mode, with every operand at every value: where the stream holds the encoded bits and then any
rest, the reader by patterns answers the element with exactly the rest left. (R101, R98, R99, R100) -/
def Obligations.FixedPatternRoundTrip : Prop :=
  ∀ (mode : Mode) (i : Instr) (p : Parser) (w rest : Bits), i.wf mode = true →
    encode (fixedEnc mode) i = some w → p.Coherent → p.upcoming = w ++ rest →
    (∀ b, i = .fixedLl0To143 b → ∃ q, readFixedRow mode p = .ok i q ∧ q.upcoming = rest) ∧
    (∀ b, i = .fixedLl144To255 b → ∃ q, readFixedRow mode p = .ok i q ∧ q.upcoming = rest) ∧
    (∀ n x d, i = .fixedLl256To279 n x d → ∃ q, readFixedRow mode p = .ok i q ∧ q.upcoming = rest) ∧
    (∀ n x d, i = .fixedLl280To287 n x d → ∃ q, readFixedRow mode p = .ok i q ∧ q.upcoming = rest) ∧
    (∀ d, i = .fixedD0To31 d → ∃ q, readFixedDist mode p = .ok d q ∧ q.upcoming = rest)

/-- For every literal/length code and distance code that pass the health check, with the tables of the
TREE strategy: a literal, an end of block, a match with every operand, or a symbol without a
meaning, well formed in the mode, whose encoded bits the stream holds and then any rest, is what is
decoded, with exactly the rest left. (R97, R98, R99, R100, R105, R300) -/
def Obligations.HuffmanDataRoundTrip : Prop :=
  ∀ (cfg : Cfg) (params : Params) (c : Ctx) (e : EncCtx) (i : Instr) (lt dt : Table) (p : Parser)
    (w rest : Bits),
    cfg.decoder = .tree → e.ll.length ≤ 288 → e.d.length ≤ 32 →
    (∀ l ∈ e.ll, l ≤ 15) → (∀ l ∈ e.d, l ≤ 15) →
    buildTable cfg params .ll e.ll 15 = some lt → buildTable cfg params .d e.d 15 = some dt →
    c.mode = e.mode → c.lltab = some lt → c.dtab = some dt →
    dataRow e.mode i = true → i.wf e.mode = true → encode e i = some w →
    p.Coherent → p.upcoming = w ++ rest →
    ∃ q, readData c p = .ok i q ∧ q.upcoming = rest

/-- For every code-length code that passes the health check, with the table of the TREE strategy: a
code-length symbol with its extra field, whose encoded bits the stream holds and then any rest, is
what is decoded, with exactly the rest left; of CL.REP16 alone it is asked that it does not raise
before its extra bits. (R96, R276, R105) -/
def Obligations.CodeLengthRoundTrip : Prop :=
  ∀ (cfg : Cfg) (params : Params) (c : Ctx) (e : EncCtx) (i : Instr) (ct : Table) (p : Parser)
    (w rest : Bits),
    cfg.decoder = .tree → e.cl.length ≤ 19 → (∀ l ∈ e.cl, l ≤ 7) →
    buildTable cfg params .cl e.cl 7 = some ct → c.cltab = some ct → (∀ x, i = .clRep16 x → c.rep16Stops = false) →
    clRow i = true → encode e i = some w → p.Coherent → p.upcoming = w ++ rest →
    ∃ q, readCl c p = .ok i q ∧ q.upcoming = rest

/-- For every policy with a legal argument, every growth table and every generator state, and current at
least 1 below required, the next capacity is at least the required one; only RANDOM changes a
generator state. What RANDOM draws above it is a free value (log entry 5). (R200, R201, R202, R203,
R209) -/
def Obligations.GrowMeetsRequest : Prop :=
  ∀ (policy : Policy) (g : GrowthTables) (rng : Option Nat) (current required : Nat),
    1 ≤ current → current < required → (∀ step, policy = .arithDoubling step → 1 ≤ step) →
    required ≤ (grow policy g rng current required).1 ∧
      ((∀ seed, policy ≠ .random seed) → (grow policy g rng current required).2 = rng)

/-- For current at least 1, grow of POW2_SHIFT is current times 2^k for the least k that reaches
required; so it is a power of two when current is one. (R202) -/
def Obligations.Pow2ShiftDoubles : Prop :=
  ∀ (g : GrowthTables) (rng : Option Nat) (current required : Nat), 1 ≤ current →
    ∃ k, (grow .pow2Shift g rng current required).1 = current * 2 ^ k ∧ required ≤ current * 2 ^ k ∧
      (∀ j < k, current * 2 ^ j < required) ∧
      (∀ a, current = 2 ^ a → ∃ b, (grow .pow2Shift g rng current required).1 = 2 ^ b)

/-- For each of the six table policies, whose table is strictly increasing, grow gives the smallest
entry that is at least required, and required itself where the table has none. (R203, R204) -/
def Obligations.TableTakesSmallest : Prop :=
  ∀ (g : GrowthTables) (rng : Option Nat) (current required : Nat) (policy : Policy) (t : List Nat),
    (policy, t) ∈ [(Policy.tablePaper, g.paper), (.tableGolden, g.golden), (.tableNatural, g.natural),
      (.tablePaperPrime, g.paperPrime), (.tableGoldenPrime, g.goldenPrime),
      (.tableNaturalPrime, g.naturalPrime)] →
    t.Pairwise (· < ·) →
    ((∃ e ∈ t, required ≤ e) → (grow policy g rng current required).1 ∈ t ∧
      required ≤ (grow policy g rng current required).1 ∧
      ∀ e ∈ t, required ≤ e → (grow policy g rng current required).1 ≤ e) ∧
    ((∀ e ∈ t, e < required) → (grow policy g rng current required).1 = required)

/-- After reset the parser is at bit 0 with nothing taken, the phase is HEADER, no error, no end-of-
stream signalled, every working register 0, every array 0 at its size, every table absent, nothing
produced, delivered or forgotten, and CAP is INIT_CAP. SUB is S_HDR, which the spec leaves to a
model. (R55, R440, R442, R25, R26) -/
def Obligations.ResetValues : Prop :=
  State.reset.bp = 0 ∧ State.reset.bits.ipos = 0 ∧ State.reset.bits.bitcnt = 0 ∧
    State.reset.bits.srcEos = false ∧ phaseCode State.reset.phase = 0 ∧ State.reset.errReg = 0 ∧
    State.reset.errPending = false ∧ State.reset.eosSignalled = false ∧
    State.reset.fixedBuilt = false ∧ State.reset.total = 0 ∧ State.reset.buf.drained = 0 ∧
    State.reset.buf.rlo = 0 ∧ State.reset.buf.cap = State.reset.cfg.initCap ∧
    State.reset.buf.base = 0 ∧ State.reset.reg.sub = .sHdr ∧
    State.reset.reg.bfinal = false ∧ State.reset.reg.btype = 0 ∧
    State.reset.reg.len = 0 ∧ State.reset.reg.nlen = 0 ∧ State.reset.reg.srem = 0 ∧
    State.reset.reg.hlit = 0 ∧ State.reset.reg.hdist = 0 ∧ State.reset.reg.hclen = 0 ∧
    State.reset.reg.clidx = 0 ∧ State.reset.reg.lidx = 0 ∧ State.reset.reg.prev = 0 ∧
    State.reset.reg.prevValid = false ∧ State.reset.reg.sym = 0 ∧ State.reset.reg.dsym = 0 ∧
    State.reset.reg.mlen = 0 ∧ State.reset.reg.mdist = 0 ∧
    State.reset.reg.cll = List.replicate 19 0 ∧ State.reset.reg.lens = List.replicate 320 0 ∧
    State.reset.reg.ll = List.replicate 288 0 ∧ State.reset.reg.dl = List.replicate 32 0 ∧
    State.reset.reg.cltab = none ∧ State.reset.reg.lltab = none ∧ State.reset.reg.dtab = none ∧
    State.reset.reg.fixlltab = none ∧ State.reset.reg.fixdtab = none

/-- The reset state meets the session invariant, its physical storage agrees with its output, and
nothing has been delivered. (R55, R23, R28, R48) -/
def Obligations.ResetMeetsInvariants : Prop :=
  State.reset.Inv ∧ Buf.LaidOut State.reset.cfg.buffer State.reset.buf ∧ DeliveredOk State.reset

/-- From every state that meets it, a step that answers a next state leads to one that meets it: CFG
legal, FAILED exactly when ERR is not 0 and not closed, ERR at most 5, the parser coherent with at
most 7 bits buffered, the window and the undelivered bytes retained, the arrays of their sizes, the
tables and counters that the phase needs present, PHYS in its canonical form. (R23, R28, R48, R74,
R222, R401, R42, R49) -/
def Obligations.StepKeepsInvariant : Prop :=
  ∀ s t : State, s.Inv → step s = .next t → t.Inv

/-- From every state that meets the session invariant, a step never ends in a fault of the model, and is
refused only in CLOSED: every stream, however malformed, runs on to DONE or to an error kind of the
spec. (R420, R411, R351, R120, R181) -/
def Obligations.StepNeverStops : Prop :=
  ∀ s : State, s.Inv →
    (∃ t, step s = .next t) ∨ (s.phase = .closed ∧ step s = .refused .readAfterClose)

/-- From every state that meets the session invariant, is not closed and whose physical storage holds
each retained byte of OUT at the index of its layout, a step that does not close leads to such a
state again, through growth, compaction, wrap-around and release of blocks. (R187, R190, R191, R192,
R193, R461, R49) -/
def Obligations.StepKeepsLayout : Prop :=
  ∀ s t : State, s.Inv → s.phase ≠ .closed → Buf.LaidOut s.cfg.buffer s.buf → step s = .next t →
    t.phase ≠ .closed → Buf.LaidOut t.cfg.buffer t.buf

/-- From every state that meets the session invariant and whose responses have delivered exactly OUT[0
.. DRAINED-1] since the construction, a step leads to such a state again. (R47, R72, R347, R475,
R342, R343) -/
def Obligations.StepKeepsDelivery : Prop :=
  ∀ s t : State, s.Inv → DeliveredOk s → step s = .next t → DeliveredOk t

/-- Whatever instruction but CONSTRUCT executes, in any state, and leaves the session open: CFG and the
OPEN parameters stay, OUT before is a prefix of OUT after, DRAINED does not fall, and an error once
recorded stays; CLOSE leaves CFG and ERR too. (R21, R28, R46, R411, R47) -/
def Obligations.SessionPromises : Prop :=
  ∀ (i : Instr) (s t : State), (∀ raw source, i ≠ .construct raw source) → exec i s = .next t →
    t.cfg = s.cfg ∧ t.params = s.params ∧ (s.err ≠ none → t.err = s.err) ∧
      (t.phase ≠ .closed → s.buf.out <+: t.buf.out ∧ s.buf.drained ≤ t.buf.drained)

/-- From every state that meets the session invariant in DONE or FAILED, a step leaves the phase, the
parser, the registers and the output as they are, or closes the session, or is the CONSTRUCT of a
new one. (R346, R348, R406, R411, R352, R67) -/
def Obligations.DoneAndFailedAreFinal : Prop :=
  ∀ s t : State, s.Inv → (s.phase = .done ∨ s.phase = .failed) → step s = .next t →
    (t.phase = s.phase ∧ t.bits = s.bits ∧ t.reg = s.reg ∧ t.buf.out = s.buf.out ∧ t.err = s.err) ∨
    t.phase = .closed ∨
    (t.phase = .header ∧ t.buf.out = [] ∧ ∃ raw source, s.host.calls.head? = some (.construct raw source))

/-- Whatever instruction executes in a running phase where no error is recorded: if it leaves FAILED, it
is by one of the five error kinds of the core, with ERR_PENDING set, and OUT, DRAINED, CFG, the host
port, EOS_SIGNALLED and the whole run buffer are as they were. (R410, R412, R405) -/
def Obligations.FaultsArePrecise : Prop :=
  ∀ (i : Instr) (s t : State), running s.phase = true → s.err = none → exec i s = .next t →
    t.phase = .failed →
    ∃ e, Raised e s t ∧ t.buf = s.buf ∧ 1 ≤ t.errReg.toNat ∧ t.errReg.toNat ≤ 5

/-- From every running state that meets the session invariant, a stream operation that does not fault
leads to a state whose BP is no smaller, whose input is the same, and which has taken exactly
ceil(BP/8) bytes from the source. (R22, R222, R230, R151, R67) -/
def Obligations.BitPointerAdvances : Prop :=
  ∀ s t : State, s.Inv → running s.phase = true → streamStep s = .next t → t.phase ≠ .failed →
    s.bp ≤ t.bp ∧ t.bits.input = s.bits.input ∧ t.bits.ipos = (t.bp + 7) / 8

/-- From every state that meets the session invariant with a read call in progress, at most 2 * (stream
bits left) + 4 steps lead to a state with no call in progress and exactly one more response: on a
finite input Advance always ends. (R344, R471, R345) -/
def Obligations.ReadCallCompletes : Prop :=
  ∀ s : State, s.Inv → s.host.call ≠ none →
    ∃ k t, k ≤ 2 * s.bitsLeft + 4 ∧ Host.Core.run Sys2Proof.core k s = .next t ∧
      t.host.call = none ∧ t.host.responses.length = s.host.responses.length + 1

/-- Two states that meet the session invariant and differ at most in the buffer strategy, the policy,
INIT_CAP, BLOCK_SIZE and the hidden storage take steps with the same outcome, to states that again
differ at most so: the same output, deliveries, faults and input consumption. (R188, R9, R184, R194,
R195) -/
def Obligations.BufferStrategiesInvisible : Prop :=
  ∀ s t : State, s.Inv → t.Inv → SameView s t → SameOutcome (step s) (step t)
end

