-- ==== Sys2Proof/Laws/Memory.lean ====
section
/-! SUPPORT. The laws of physical storage: reading after a write, and that every operation over the storage
keeps its canonical form. -/

namespace Sys2Proof.Machine

/-! ### Reading after a write -/

/-- A read of the address written gives the byte written. -/
theorem Memory.read_write_same (m : List Host.Cell) (a : Nat) (v : Byte) :
    Memory.read (Memory.write m a v) a = some v := by
  induction m with
  | nil => simp [Memory.write, Memory.read]
  | cons c rest ih =>
    obtain ⟨x, b⟩ := c
    simp only [Memory.write]
    split
    · simp [Memory.read]
    · split
      · simp [Memory.read]
      · rename_i h
        simp [Memory.read, h, ih]

/-- A write leaves every other address alone. -/
theorem Memory.read_write_other (m : List Host.Cell) (a x : Nat) (v : Byte) (h : x ≠ a) :
    Memory.read (Memory.write m a v) x = Memory.read m x := by
  induction m with
  | nil => simp [Memory.write, Memory.read, h]
  | cons c rest ih =>
    obtain ⟨y, b⟩ := c
    simp only [Memory.write]
    split
    · simp [Memory.read, h]
    · split
      · rename_i h'
        subst h'
        simp [Memory.read, h]
      · simp [Memory.read, ih]

/-! ### The canonical form as a chain -/

/-- The canonical form says that the addresses rise from each cell to the next. -/
theorem Memory.wf_cons (a : Nat) (b : Byte) (m : List Host.Cell) :
    Memory.wf ((a, b) :: m) = true ↔ (∀ c ∈ m.head?, a < c.1) ∧ Memory.wf m = true := by
  cases m with
  | nil => simp [Memory.wf]
  | cons c rest =>
    obtain ⟨x, y⟩ := c
    simp [Memory.wf]

/-- The canonical form says that the addresses rise strictly. -/
theorem Memory.wf_iff_pairwise (m : List Host.Cell) :
    Memory.wf m = true ↔ m.Pairwise (fun c d => c.1 < d.1) := by
  induction m with
  | nil => simp [Memory.wf]
  | cons c rest ih =>
    obtain ⟨a, b⟩ := c
    rw [Memory.wf_cons, ih, List.pairwise_cons]
    refine and_congr_left fun hp => ⟨fun h d hd => ?_, fun h d hd => h d (List.mem_of_mem_head? hd)⟩
    cases rest with
    | nil => cases hd
    | cons e rest =>
      have he : a < e.1 := h e rfl
      rcases List.mem_cons.mp hd with rfl | hd
      · exact he
      · exact lt_trans he ((List.pairwise_cons.mp hp).1 d hd)

/-- Every cell after a write is the one written or was there before. -/
theorem Memory.mem_write (m : List Host.Cell) (a : Nat) (v : Byte) (c : Host.Cell)
    (h : c ∈ Memory.write m a v) : c = (a, v) ∨ c ∈ m := by
  induction m with
  | nil => simpa [Memory.write] using h
  | cons d rest ih =>
    obtain ⟨x, b⟩ := d
    simp only [Memory.write] at h
    split at h
    · simpa using h
    · split at h
      · rcases List.mem_cons.mp h with h | h
        · exact .inl h
        · exact .inr (List.mem_cons_of_mem _ h)
      · rcases List.mem_cons.mp h with h | h
        · exact .inr (h ▸ List.mem_cons_self)
        · exact (ih h).imp_right (List.mem_cons_of_mem _)

/-! ### The operations keep the canonical form -/

/-- A write keeps the canonical form. -/
theorem Memory.write_wf (m : List Host.Cell) (a : Nat) (v : Byte) (h : Memory.wf m = true) :
    Memory.wf (Memory.write m a v) = true := by
  rw [Memory.wf_iff_pairwise] at h ⊢
  induction m with
  | nil => simp [Memory.write]
  | cons c rest ih =>
    obtain ⟨x, b⟩ := c
    have hc := List.pairwise_cons.mp h
    simp only [Memory.write]
    split
    · rename_i hlt
      refine List.pairwise_cons.mpr ⟨fun d hd => ?_, h⟩
      rcases List.mem_cons.mp hd with rfl | hd
      · exact hlt
      · exact lt_trans hlt (hc.1 d hd)
    · split
      · rename_i heq
        subst heq
        exact List.pairwise_cons.mpr ⟨hc.1, hc.2⟩
      · refine List.pairwise_cons.mpr ⟨fun d hd => ?_, ih hc.2⟩
        rcases Memory.mem_write _ _ _ _ hd with rfl | hd
        · show x < a
          omega
        · exact hc.1 d hd

/-- Releasing low cells keeps the canonical form. -/
theorem Memory.dropBelow_wf (low : Nat) (m : List Host.Cell) (h : Memory.wf m = true) :
    Memory.wf (Memory.dropBelow low m) = true := by
  rw [Memory.wf_iff_pairwise] at h ⊢
  exact h.filter _

/-- A read at or above the bound is not touched by the release of lower cells. -/
theorem Memory.read_dropBelow (low a : Nat) (m : List Host.Cell) (h : low ≤ a) :
    Memory.read (Memory.dropBelow low m) a = Memory.read m a := by
  induction m with
  | nil => rfl
  | cons c rest ih =>
    obtain ⟨x, b⟩ := c
    simp only [Memory.dropBelow, List.filter_cons] at ih ⊢
    split
    · simp only [Memory.read, ih]
    · rename_i hx
      have : a ≠ x := by
        simp only [decide_eq_true_eq] at hx
        omega
      simp only [Memory.read, ih, this, if_false]

/-- Storage laid out anew is in canonical form. -/
theorem relay_wf (kind : BufferKind) (b : Buf) (cap' base' lo : Nat) :
    Memory.wf (relay kind b cap' base' lo) = true := by
  unfold relay
  generalize List.range (Buf.total b - lo) = l
  suffices ∀ m, Memory.wf m = true → Memory.wf (l.foldl (fun m i =>
      match Buf.physRead kind b (lo + i) with
      | some v => Memory.write m (physIndex kind cap' base' (lo + i)) v
      | none => m) m) = true from this [] rfl
  induction l with
  | nil => exact fun m h => h
  | cons i rest ih =>
    intro m h
    refine ih _ ?_
    dsimp only
    split
    · exact Memory.write_wf _ _ _ h
    · exact h

/-- `EnsureCapacity` keeps the canonical form, in every strategy. -/
theorem ensureCapacity_wf (cfg : Cfg) (g : GrowthTables) (k t1 : Nat) (b : Buf)
    (h : Memory.wf b.phys = true) : Memory.wf (ensureCapacity cfg g k t1 b).phys = true := by
  have hc : Memory.wf (ensureCyclic cfg g k t1 b).phys = true := by
    simp only [ensureCyclic]
    split
    · exact relay_wf ..
    · exact h
  have hl : Memory.wf (ensureLinear cfg g k t1 b).phys = true := by
    simp only [ensureLinear]
    split
    · exact relay_wf ..
    · split
      · exact relay_wf ..
      · exact h
  unfold ensureCapacity
  cases cfg.buffer
  · exact hc
  · exact hl
  · exact Memory.dropBelow_wf _ _ h
  · exact hl
  · exact hl

/-- `Append` keeps the canonical form. -/
theorem append_wf (v : Byte) (s : State) (h : Memory.wf s.buf.phys = true) :
    Memory.wf (append v s).buf.phys = true :=
  Memory.write_wf _ _ _ (ensureCapacity_wf _ _ _ _ _ h)

/-- The storage of the reset state is in canonical form. -/
theorem reset_phys_wf : Memory.wf State.reset.buf.phys = true := rfl

/-- The storage of a new instance is in canonical form. -/
theorem newInstance_phys_wf (cfg : Cfg) (source : List Byte) (s : State) :
    Memory.wf (newInstance cfg source s).buf.phys = true := rfl

/-- The storage after `CLOSE` is in canonical form. -/
theorem release_phys_wf (s : State) : Memory.wf (release s).buf.phys = true := rfl

end Sys2Proof.Machine
end

