-- ==== Sys2Proof/Laws/State.lean ====
section
/-! SUPPORT. One lemma for each field of the state under each update of it: what the field is after the
update.  A later proof rewrites with them and unfolds no update. -/

namespace Sys2Proof.Machine

/-! ### Updates that write their fields in every case -/

@[simp] theorem raise_cfg (e : ErrKind) (s : State) : (raise e s).cfg = s.cfg := rfl

@[simp] theorem raise_params (e : ErrKind) (s : State) : (raise e s).params = s.params := rfl

@[simp] theorem raise_bits (e : ErrKind) (s : State) :
    (raise e s).bits = { s.bits with
      bitbuf := (Config.residue s.free).bitbuf
      ipos := faultIpos s.free s.opStart s.bits.ipos } := rfl

@[simp] theorem raise_phase (e : ErrKind) (s : State) : (raise e s).phase = .failed := rfl

@[simp] theorem raise_err (e : ErrKind) (s : State) : (raise e s).err = some (s.err.getD e) := rfl

@[simp] theorem raise_errPending (e : ErrKind) (s : State) : (raise e s).errPending = true := rfl

@[simp] theorem raise_eosSignalled (e : ErrKind) (s : State) :
    (raise e s).eosSignalled = s.eosSignalled := rfl

@[simp] theorem raise_fixedBuilt (e : ErrKind) (s : State) :
    (raise e s).fixedBuilt = s.fixedBuilt := rfl

@[simp] theorem raise_reg (e : ErrKind) (s : State) :
    (raise e s).reg = (Config.residue s.free).reg := rfl

@[simp] theorem raise_buf (e : ErrKind) (s : State) : (raise e s).buf = s.buf := rfl

@[simp] theorem raise_host (e : ErrKind) (s : State) : (raise e s).host = s.host := rfl

@[simp] theorem raise_opStart (e : ErrKind) (s : State) : (raise e s).opStart = s.opStart := rfl

@[simp] theorem raise_free (e : ErrKind) (s : State) : (raise e s).free = s.free + 1 := rfl

@[simp] theorem append_cfg (v : Byte) (s : State) : (append v s).cfg = s.cfg := rfl

@[simp] theorem append_params (v : Byte) (s : State) : (append v s).params = s.params := rfl

@[simp] theorem append_bits (v : Byte) (s : State) : (append v s).bits = s.bits := rfl

@[simp] theorem append_phase (v : Byte) (s : State) : (append v s).phase = s.phase := rfl

@[simp] theorem append_err (v : Byte) (s : State) : (append v s).err = s.err := rfl

@[simp] theorem append_errPending (v : Byte) (s : State) :
    (append v s).errPending = s.errPending := rfl

@[simp] theorem append_eosSignalled (v : Byte) (s : State) :
    (append v s).eosSignalled = s.eosSignalled := rfl

@[simp] theorem append_fixedBuilt (v : Byte) (s : State) :
    (append v s).fixedBuilt = s.fixedBuilt := rfl

@[simp] theorem append_reg (v : Byte) (s : State) : (append v s).reg = s.reg := rfl

@[simp] theorem append_buf (v : Byte) (s : State) :
    (append v s).buf = Buf.append s.cfg s.params.growth s.free v s.buf := rfl

@[simp] theorem append_host (v : Byte) (s : State) : (append v s).host = s.host := rfl

@[simp] theorem append_opStart (v : Byte) (s : State) : (append v s).opStart = s.opStart := rfl

@[simp] theorem append_free (v : Byte) (s : State) : (append v s).free = s.free + 2 := rfl

@[simp] theorem drain_cfg (k : Nat) (s : State) : (drain k s).cfg = s.cfg := rfl

@[simp] theorem drain_params (k : Nat) (s : State) : (drain k s).params = s.params := rfl

@[simp] theorem drain_bits (k : Nat) (s : State) : (drain k s).bits = s.bits := rfl

@[simp] theorem drain_phase (k : Nat) (s : State) : (drain k s).phase = s.phase := rfl

@[simp] theorem drain_err (k : Nat) (s : State) : (drain k s).err = s.err := rfl

@[simp] theorem drain_errPending (k : Nat) (s : State) :
    (drain k s).errPending = s.errPending := rfl

@[simp] theorem drain_eosSignalled (k : Nat) (s : State) :
    (drain k s).eosSignalled = s.eosSignalled := rfl

@[simp] theorem drain_fixedBuilt (k : Nat) (s : State) :
    (drain k s).fixedBuilt = s.fixedBuilt := rfl

@[simp] theorem drain_reg (k : Nat) (s : State) : (drain k s).reg = s.reg := rfl

@[simp] theorem drain_buf (k : Nat) (s : State) : (drain k s).buf = Buf.drain k s.buf := rfl

@[simp] theorem drain_host (k : Nat) (s : State) : (drain k s).host = s.host := rfl

@[simp] theorem drain_opStart (k : Nat) (s : State) : (drain k s).opStart = s.opStart := rfl

@[simp] theorem drain_free (k : Nat) (s : State) : (drain k s).free = s.free := rfl

@[simp] theorem recordHeader_cfg (final : Bool) (type : BitVec 2) (s : State) :
    (recordHeader final type s).cfg = s.cfg := rfl

@[simp] theorem recordHeader_params (final : Bool) (type : BitVec 2) (s : State) :
    (recordHeader final type s).params = s.params := rfl

@[simp] theorem recordHeader_bits (final : Bool) (type : BitVec 2) (s : State) :
    (recordHeader final type s).bits = s.bits := rfl

@[simp] theorem recordHeader_phase (final : Bool) (type : BitVec 2) (s : State) :
    (recordHeader final type s).phase = s.phase := rfl

@[simp] theorem recordHeader_err (final : Bool) (type : BitVec 2) (s : State) :
    (recordHeader final type s).err = s.err := rfl

@[simp] theorem recordHeader_errPending (final : Bool) (type : BitVec 2) (s : State) :
    (recordHeader final type s).errPending = s.errPending := rfl

@[simp] theorem recordHeader_eosSignalled (final : Bool) (type : BitVec 2) (s : State) :
    (recordHeader final type s).eosSignalled = s.eosSignalled := rfl

@[simp] theorem recordHeader_fixedBuilt (final : Bool) (type : BitVec 2) (s : State) :
    (recordHeader final type s).fixedBuilt = s.fixedBuilt := rfl

@[simp] theorem recordHeader_reg (final : Bool) (type : BitVec 2) (s : State) :
    (recordHeader final type s).reg = { s.reg with bfinal := final, btype := type } := rfl

@[simp] theorem recordHeader_buf (final : Bool) (type : BitVec 2) (s : State) :
    (recordHeader final type s).buf = s.buf := rfl

@[simp] theorem recordHeader_host (final : Bool) (type : BitVec 2) (s : State) :
    (recordHeader final type s).host = s.host := rfl

@[simp] theorem recordHeader_opStart (final : Bool) (type : BitVec 2) (s : State) :
    (recordHeader final type s).opStart = s.opStart := rfl

@[simp] theorem recordHeader_free (final : Bool) (type : BitVec 2) (s : State) :
    (recordHeader final type s).free = s.free := rfl

@[simp] theorem enterStored_cfg (s : State) : (enterStored s).cfg = s.cfg := rfl

@[simp] theorem enterStored_params (s : State) : (enterStored s).params = s.params := rfl

@[simp] theorem enterStored_bits (s : State) : (enterStored s).bits = s.bits := rfl

@[simp] theorem enterStored_phase (s : State) : (enterStored s).phase = .stored := rfl

@[simp] theorem enterStored_err (s : State) : (enterStored s).err = s.err := rfl

@[simp] theorem enterStored_errPending (s : State) :
    (enterStored s).errPending = s.errPending := rfl

@[simp] theorem enterStored_eosSignalled (s : State) :
    (enterStored s).eosSignalled = s.eosSignalled := rfl

@[simp] theorem enterStored_fixedBuilt (s : State) :
    (enterStored s).fixedBuilt = s.fixedBuilt := rfl

@[simp] theorem enterStored_reg (s : State) :
    (enterStored s).reg = { s.reg with sub := .sHdr } := rfl

@[simp] theorem enterStored_buf (s : State) : (enterStored s).buf = s.buf := rfl

@[simp] theorem enterStored_host (s : State) : (enterStored s).host = s.host := rfl

@[simp] theorem enterStored_opStart (s : State) : (enterStored s).opStart = s.opStart := rfl

@[simp] theorem enterStored_free (s : State) : (enterStored s).free = s.free := rfl

@[simp] theorem enterDynamic_cfg (s : State) : (enterDynamic s).cfg = s.cfg := rfl

@[simp] theorem enterDynamic_params (s : State) : (enterDynamic s).params = s.params := rfl

@[simp] theorem enterDynamic_bits (s : State) : (enterDynamic s).bits = s.bits := rfl

@[simp] theorem enterDynamic_phase (s : State) : (enterDynamic s).phase = .dynamic := rfl

@[simp] theorem enterDynamic_err (s : State) : (enterDynamic s).err = s.err := rfl

@[simp] theorem enterDynamic_errPending (s : State) :
    (enterDynamic s).errPending = s.errPending := rfl

@[simp] theorem enterDynamic_eosSignalled (s : State) :
    (enterDynamic s).eosSignalled = s.eosSignalled := rfl

@[simp] theorem enterDynamic_fixedBuilt (s : State) :
    (enterDynamic s).fixedBuilt = s.fixedBuilt := rfl

@[simp] theorem enterDynamic_reg (s : State) :
    (enterDynamic s).reg = { s.reg with sub := .dCounts, cltab := none, lltab := none, dtab := none } := rfl

@[simp] theorem enterDynamic_buf (s : State) : (enterDynamic s).buf = s.buf := rfl

@[simp] theorem enterDynamic_host (s : State) : (enterDynamic s).host = s.host := rfl

@[simp] theorem enterDynamic_opStart (s : State) : (enterDynamic s).opStart = s.opStart := rfl

@[simp] theorem enterDynamic_free (s : State) : (enterDynamic s).free = s.free := rfl

@[simp] theorem useFixed_cfg (s : State) : (useFixed s).cfg = s.cfg := rfl

@[simp] theorem useFixed_params (s : State) : (useFixed s).params = s.params := rfl

@[simp] theorem useFixed_bits (s : State) : (useFixed s).bits = s.bits := rfl

@[simp] theorem useFixed_phase (s : State) : (useFixed s).phase = .fixed := rfl

@[simp] theorem useFixed_err (s : State) : (useFixed s).err = s.err := rfl

@[simp] theorem useFixed_errPending (s : State) : (useFixed s).errPending = s.errPending := rfl

@[simp] theorem useFixed_eosSignalled (s : State) :
    (useFixed s).eosSignalled = s.eosSignalled := rfl

@[simp] theorem useFixed_fixedBuilt (s : State) : (useFixed s).fixedBuilt = s.fixedBuilt := rfl

@[simp] theorem useFixed_reg (s : State) :
    (useFixed s).reg = { s.reg with
      sub := .fData, lltab := s.reg.fixlltab, dtab := s.reg.fixdtab
      ll := fixedLiteralLengthAlphabet.map (BitVec.ofNat 4)
      dl := fixedDistanceAlphabet.map (BitVec.ofNat 4) } := rfl

@[simp] theorem useFixed_buf (s : State) : (useFixed s).buf = s.buf := rfl

@[simp] theorem useFixed_host (s : State) : (useFixed s).host = s.host := rfl

@[simp] theorem useFixed_opStart (s : State) : (useFixed s).opStart = s.opStart := rfl

@[simp] theorem useFixed_free (s : State) : (useFixed s).free = s.free := rfl

@[simp] theorem recordLen_cfg (len nlen : BitVec 16) (s : State) :
    (recordLen len nlen s).cfg = s.cfg := rfl

@[simp] theorem recordLen_params (len nlen : BitVec 16) (s : State) :
    (recordLen len nlen s).params = s.params := rfl

@[simp] theorem recordLen_bits (len nlen : BitVec 16) (s : State) :
    (recordLen len nlen s).bits = s.bits := rfl

@[simp] theorem recordLen_phase (len nlen : BitVec 16) (s : State) :
    (recordLen len nlen s).phase = s.phase := rfl

@[simp] theorem recordLen_err (len nlen : BitVec 16) (s : State) :
    (recordLen len nlen s).err = s.err := rfl

@[simp] theorem recordLen_errPending (len nlen : BitVec 16) (s : State) :
    (recordLen len nlen s).errPending = s.errPending := rfl

@[simp] theorem recordLen_eosSignalled (len nlen : BitVec 16) (s : State) :
    (recordLen len nlen s).eosSignalled = s.eosSignalled := rfl

@[simp] theorem recordLen_fixedBuilt (len nlen : BitVec 16) (s : State) :
    (recordLen len nlen s).fixedBuilt = s.fixedBuilt := rfl

@[simp] theorem recordLen_reg (len nlen : BitVec 16) (s : State) :
    (recordLen len nlen s).reg = { s.reg with len := len, nlen := nlen } := rfl

@[simp] theorem recordLen_buf (len nlen : BitVec 16) (s : State) :
    (recordLen len nlen s).buf = s.buf := rfl

@[simp] theorem recordLen_host (len nlen : BitVec 16) (s : State) :
    (recordLen len nlen s).host = s.host := rfl

@[simp] theorem recordLen_opStart (len nlen : BitVec 16) (s : State) :
    (recordLen len nlen s).opStart = s.opStart := rfl

@[simp] theorem recordLen_free (len nlen : BitVec 16) (s : State) :
    (recordLen len nlen s).free = s.free := rfl

@[simp] theorem putLens_cfg (r : Nat) (v : BitVec 4) (s : State) :
    (putLens r v s).cfg = s.cfg := rfl

@[simp] theorem putLens_params (r : Nat) (v : BitVec 4) (s : State) :
    (putLens r v s).params = s.params := rfl

@[simp] theorem putLens_bits (r : Nat) (v : BitVec 4) (s : State) :
    (putLens r v s).bits = s.bits := rfl

@[simp] theorem putLens_phase (r : Nat) (v : BitVec 4) (s : State) :
    (putLens r v s).phase = s.phase := rfl

@[simp] theorem putLens_err (r : Nat) (v : BitVec 4) (s : State) :
    (putLens r v s).err = s.err := rfl

@[simp] theorem putLens_errPending (r : Nat) (v : BitVec 4) (s : State) :
    (putLens r v s).errPending = s.errPending := rfl

@[simp] theorem putLens_eosSignalled (r : Nat) (v : BitVec 4) (s : State) :
    (putLens r v s).eosSignalled = s.eosSignalled := rfl

@[simp] theorem putLens_fixedBuilt (r : Nat) (v : BitVec 4) (s : State) :
    (putLens r v s).fixedBuilt = s.fixedBuilt := rfl

@[simp] theorem putLens_reg (r : Nat) (v : BitVec 4) (s : State) :
    (putLens r v s).reg = { s.reg with
      lens := (List.range r).foldl (fun l j => l.set (s.reg.lidx + j) v) s.reg.lens
      lidx := s.reg.lidx + r } := rfl

@[simp] theorem putLens_buf (r : Nat) (v : BitVec 4) (s : State) :
    (putLens r v s).buf = s.buf := rfl

@[simp] theorem putLens_host (r : Nat) (v : BitVec 4) (s : State) :
    (putLens r v s).host = s.host := rfl

@[simp] theorem putLens_opStart (r : Nat) (v : BitVec 4) (s : State) :
    (putLens r v s).opStart = s.opStart := rfl

@[simp] theorem putLens_free (r : Nat) (v : BitVec 4) (s : State) :
    (putLens r v s).free = s.free := rfl

@[simp] theorem setPrev_cfg (v : BitVec 4) (s : State) : (setPrev v s).cfg = s.cfg := rfl

@[simp] theorem setPrev_params (v : BitVec 4) (s : State) : (setPrev v s).params = s.params := rfl

@[simp] theorem setPrev_bits (v : BitVec 4) (s : State) : (setPrev v s).bits = s.bits := rfl

@[simp] theorem setPrev_phase (v : BitVec 4) (s : State) : (setPrev v s).phase = s.phase := rfl

@[simp] theorem setPrev_err (v : BitVec 4) (s : State) : (setPrev v s).err = s.err := rfl

@[simp] theorem setPrev_errPending (v : BitVec 4) (s : State) :
    (setPrev v s).errPending = s.errPending := rfl

@[simp] theorem setPrev_eosSignalled (v : BitVec 4) (s : State) :
    (setPrev v s).eosSignalled = s.eosSignalled := rfl

@[simp] theorem setPrev_fixedBuilt (v : BitVec 4) (s : State) :
    (setPrev v s).fixedBuilt = s.fixedBuilt := rfl

@[simp] theorem setPrev_reg (v : BitVec 4) (s : State) :
    (setPrev v s).reg = { s.reg with prev := v, prevValid := true } := rfl

@[simp] theorem setPrev_buf (v : BitVec 4) (s : State) : (setPrev v s).buf = s.buf := rfl

@[simp] theorem setPrev_host (v : BitVec 4) (s : State) : (setPrev v s).host = s.host := rfl

@[simp] theorem setPrev_opStart (v : BitVec 4) (s : State) :
    (setPrev v s).opStart = s.opStart := rfl

@[simp] theorem setPrev_free (v : BitVec 4) (s : State) : (setPrev v s).free = s.free := rfl

@[simp] theorem splitLens_cfg (s : State) : (splitLens s).cfg = s.cfg := rfl

@[simp] theorem splitLens_params (s : State) : (splitLens s).params = s.params := rfl

@[simp] theorem splitLens_bits (s : State) : (splitLens s).bits = s.bits := rfl

@[simp] theorem splitLens_phase (s : State) : (splitLens s).phase = s.phase := rfl

@[simp] theorem splitLens_err (s : State) : (splitLens s).err = s.err := rfl

@[simp] theorem splitLens_errPending (s : State) : (splitLens s).errPending = s.errPending := rfl

@[simp] theorem splitLens_eosSignalled (s : State) :
    (splitLens s).eosSignalled = s.eosSignalled := rfl

@[simp] theorem splitLens_fixedBuilt (s : State) : (splitLens s).fixedBuilt = s.fixedBuilt := rfl

@[simp] theorem splitLens_reg (s : State) :
    (splitLens s).reg = { s.reg with ll := dynLl s.reg, dl := dynDl s.reg } := rfl

@[simp] theorem splitLens_buf (s : State) : (splitLens s).buf = s.buf := rfl

@[simp] theorem splitLens_host (s : State) : (splitLens s).host = s.host := rfl

@[simp] theorem splitLens_opStart (s : State) : (splitLens s).opStart = s.opStart := rfl

@[simp] theorem splitLens_free (s : State) : (splitLens s).free = s.free := rfl

@[simp] theorem setSym_cfg (sym : Nat) (s : State) : (setSym sym s).cfg = s.cfg := rfl

@[simp] theorem setSym_params (sym : Nat) (s : State) : (setSym sym s).params = s.params := rfl

@[simp] theorem setSym_bits (sym : Nat) (s : State) : (setSym sym s).bits = s.bits := rfl

@[simp] theorem setSym_phase (sym : Nat) (s : State) : (setSym sym s).phase = s.phase := rfl

@[simp] theorem setSym_err (sym : Nat) (s : State) : (setSym sym s).err = s.err := rfl

@[simp] theorem setSym_errPending (sym : Nat) (s : State) :
    (setSym sym s).errPending = s.errPending := rfl

@[simp] theorem setSym_eosSignalled (sym : Nat) (s : State) :
    (setSym sym s).eosSignalled = s.eosSignalled := rfl

@[simp] theorem setSym_fixedBuilt (sym : Nat) (s : State) :
    (setSym sym s).fixedBuilt = s.fixedBuilt := rfl

@[simp] theorem setSym_reg (sym : Nat) (s : State) :
    (setSym sym s).reg = { s.reg with sym := BitVec.ofNat 9 sym } := rfl

@[simp] theorem setSym_buf (sym : Nat) (s : State) : (setSym sym s).buf = s.buf := rfl

@[simp] theorem setSym_host (sym : Nat) (s : State) : (setSym sym s).host = s.host := rfl

@[simp] theorem setSym_opStart (sym : Nat) (s : State) : (setSym sym s).opStart = s.opStart := rfl

@[simp] theorem setSym_free (sym : Nat) (s : State) : (setSym sym s).free = s.free := rfl

@[simp] theorem respond_cfg (r : Response) (s : State) : (respond r s).cfg = s.cfg := rfl

@[simp] theorem respond_params (r : Response) (s : State) : (respond r s).params = s.params := rfl

@[simp] theorem respond_bits (r : Response) (s : State) : (respond r s).bits = s.bits := rfl

@[simp] theorem respond_phase (r : Response) (s : State) : (respond r s).phase = s.phase := rfl

@[simp] theorem respond_err (r : Response) (s : State) : (respond r s).err = s.err := rfl

@[simp] theorem respond_errPending (r : Response) (s : State) :
    (respond r s).errPending = s.errPending := rfl

@[simp] theorem respond_eosSignalled (r : Response) (s : State) :
    (respond r s).eosSignalled = s.eosSignalled := rfl

@[simp] theorem respond_fixedBuilt (r : Response) (s : State) :
    (respond r s).fixedBuilt = s.fixedBuilt := rfl

@[simp] theorem respond_reg (r : Response) (s : State) : (respond r s).reg = s.reg := rfl

@[simp] theorem respond_buf (r : Response) (s : State) : (respond r s).buf = s.buf := rfl

@[simp] theorem respond_host (r : Response) (s : State) :
    (respond r s).host = { s.host with call := none, want := 0, responses := s.host.responses ++ [r] } := rfl

@[simp] theorem respond_opStart (r : Response) (s : State) :
    (respond r s).opStart = s.opStart := rfl

@[simp] theorem respond_free (r : Response) (s : State) : (respond r s).free = s.free := rfl

@[simp] theorem takeCall_cfg (rest : List HostCall) (s : State) :
    (takeCall rest s).cfg = s.cfg := rfl

@[simp] theorem takeCall_params (rest : List HostCall) (s : State) :
    (takeCall rest s).params = s.params := rfl

@[simp] theorem takeCall_bits (rest : List HostCall) (s : State) :
    (takeCall rest s).bits = s.bits := rfl

@[simp] theorem takeCall_phase (rest : List HostCall) (s : State) :
    (takeCall rest s).phase = s.phase := rfl

@[simp] theorem takeCall_err (rest : List HostCall) (s : State) :
    (takeCall rest s).err = s.err := rfl

@[simp] theorem takeCall_errPending (rest : List HostCall) (s : State) :
    (takeCall rest s).errPending = s.errPending := rfl

@[simp] theorem takeCall_eosSignalled (rest : List HostCall) (s : State) :
    (takeCall rest s).eosSignalled = s.eosSignalled := rfl

@[simp] theorem takeCall_fixedBuilt (rest : List HostCall) (s : State) :
    (takeCall rest s).fixedBuilt = s.fixedBuilt := rfl

@[simp] theorem takeCall_reg (rest : List HostCall) (s : State) :
    (takeCall rest s).reg = s.reg := rfl

@[simp] theorem takeCall_buf (rest : List HostCall) (s : State) :
    (takeCall rest s).buf = s.buf := rfl

@[simp] theorem takeCall_host (rest : List HostCall) (s : State) :
    (takeCall rest s).host = { s.host with calls := rest } := rfl

@[simp] theorem takeCall_opStart (rest : List HostCall) (s : State) :
    (takeCall rest s).opStart = s.opStart := rfl

@[simp] theorem takeCall_free (rest : List HostCall) (s : State) :
    (takeCall rest s).free = s.free := rfl

@[simp] theorem atElement_cfg (p : Parser) (s : State) : (atElement p s).cfg = s.cfg := rfl

@[simp] theorem atElement_params (p : Parser) (s : State) : (atElement p s).params = s.params := rfl

@[simp] theorem atElement_bits (p : Parser) (s : State) : (atElement p s).bits = p := rfl

@[simp] theorem atElement_phase (p : Parser) (s : State) : (atElement p s).phase = s.phase := rfl

@[simp] theorem atElement_err (p : Parser) (s : State) : (atElement p s).err = s.err := rfl

@[simp] theorem atElement_errPending (p : Parser) (s : State) :
    (atElement p s).errPending = s.errPending := rfl

@[simp] theorem atElement_eosSignalled (p : Parser) (s : State) :
    (atElement p s).eosSignalled = s.eosSignalled := rfl

@[simp] theorem atElement_fixedBuilt (p : Parser) (s : State) :
    (atElement p s).fixedBuilt = s.fixedBuilt := rfl

@[simp] theorem atElement_reg (p : Parser) (s : State) : (atElement p s).reg = s.reg := rfl

@[simp] theorem atElement_buf (p : Parser) (s : State) : (atElement p s).buf = s.buf := rfl

@[simp] theorem atElement_host (p : Parser) (s : State) : (atElement p s).host = s.host := rfl

@[simp] theorem atElement_opStart (p : Parser) (s : State) :
    (atElement p s).opStart = s.bits.ipos := rfl

@[simp] theorem atElement_free (p : Parser) (s : State) : (atElement p s).free = s.free := rfl

/-! ### Updates whose written fields depend on the state: the fields they leave unchanged -/

@[simp] theorem endBlock_cfg (s : State) : (endBlock s).cfg = s.cfg := rfl

@[simp] theorem endBlock_params (s : State) : (endBlock s).params = s.params := rfl

@[simp] theorem endBlock_bits (s : State) : (endBlock s).bits = s.bits := rfl

@[simp] theorem endBlock_err (s : State) : (endBlock s).err = s.err := rfl

@[simp] theorem endBlock_errPending (s : State) : (endBlock s).errPending = s.errPending := rfl

@[simp] theorem endBlock_eosSignalled (s : State) : (endBlock s).eosSignalled = s.eosSignalled := rfl

@[simp] theorem endBlock_fixedBuilt (s : State) : (endBlock s).fixedBuilt = s.fixedBuilt := rfl

@[simp] theorem endBlock_reg (s : State) : (endBlock s).reg = s.reg := rfl

@[simp] theorem endBlock_buf (s : State) : (endBlock s).buf = s.buf := rfl

@[simp] theorem endBlock_host (s : State) : (endBlock s).host = s.host := rfl

@[simp] theorem endBlock_opStart (s : State) : (endBlock s).opStart = s.opStart := rfl

@[simp] theorem endBlock_free (s : State) : (endBlock s).free = s.free := rfl

@[simp] theorem afterLens_cfg (s : State) : (afterLens s).cfg = s.cfg := by
  unfold afterLens; split <;> rfl

@[simp] theorem afterLens_params (s : State) : (afterLens s).params = s.params := by
  unfold afterLens; split <;> rfl

@[simp] theorem afterLens_bits (s : State) : (afterLens s).bits = s.bits := by
  unfold afterLens; split <;> rfl

@[simp] theorem afterLens_phase (s : State) : (afterLens s).phase = s.phase := by
  unfold afterLens; split <;> rfl

@[simp] theorem afterLens_err (s : State) : (afterLens s).err = s.err := by
  unfold afterLens; split <;> rfl

@[simp] theorem afterLens_errPending (s : State) : (afterLens s).errPending = s.errPending := by
  unfold afterLens; split <;> rfl

@[simp] theorem afterLens_eosSignalled (s : State) : (afterLens s).eosSignalled = s.eosSignalled := by
  unfold afterLens; split <;> rfl

@[simp] theorem afterLens_fixedBuilt (s : State) : (afterLens s).fixedBuilt = s.fixedBuilt := by
  unfold afterLens; split <;> rfl

@[simp] theorem afterLens_buf (s : State) : (afterLens s).buf = s.buf := by
  unfold afterLens; split <;> rfl

@[simp] theorem afterLens_host (s : State) : (afterLens s).host = s.host := by
  unfold afterLens; split <;> rfl

@[simp] theorem afterLens_opStart (s : State) : (afterLens s).opStart = s.opStart := by
  unfold afterLens; split <;> rfl

@[simp] theorem afterLens_free (s : State) : (afterLens s).free = s.free := by
  unfold afterLens; split <;> rfl

@[simp] theorem buildFixed_cfg (s : State) : (buildFixed s).cfg = s.cfg := by
  unfold buildFixed; split <;> rfl

@[simp] theorem buildFixed_params (s : State) : (buildFixed s).params = s.params := by
  unfold buildFixed; split <;> rfl

@[simp] theorem buildFixed_bits (s : State) : (buildFixed s).bits = s.bits := by
  unfold buildFixed; split <;> rfl

@[simp] theorem buildFixed_phase (s : State) : (buildFixed s).phase = s.phase := by
  unfold buildFixed; split <;> rfl

@[simp] theorem buildFixed_err (s : State) : (buildFixed s).err = s.err := by
  unfold buildFixed; split <;> rfl

@[simp] theorem buildFixed_errPending (s : State) : (buildFixed s).errPending = s.errPending := by
  unfold buildFixed; split <;> rfl

@[simp] theorem buildFixed_eosSignalled (s : State) : (buildFixed s).eosSignalled = s.eosSignalled := by
  unfold buildFixed; split <;> rfl

@[simp] theorem buildFixed_buf (s : State) : (buildFixed s).buf = s.buf := by
  unfold buildFixed; split <;> rfl

@[simp] theorem buildFixed_host (s : State) : (buildFixed s).host = s.host := by
  unfold buildFixed; split <;> rfl

@[simp] theorem buildFixed_opStart (s : State) : (buildFixed s).opStart = s.opStart := by
  unfold buildFixed; split <;> rfl

@[simp] theorem buildFixed_free (s : State) : (buildFixed s).free = s.free := by
  unfold buildFixed; split <;> rfl

@[simp] theorem startStored_cfg (len : BitVec 16) (s : State) : (startStored len s).cfg = s.cfg := by
  unfold startStored endBlock; repeat (split <;> try rfl)

@[simp] theorem startStored_params (len : BitVec 16) (s : State) : (startStored len s).params = s.params := by
  unfold startStored endBlock; repeat (split <;> try rfl)

@[simp] theorem startStored_bits (len : BitVec 16) (s : State) : (startStored len s).bits = s.bits := by
  unfold startStored endBlock; repeat (split <;> try rfl)

@[simp] theorem startStored_err (len : BitVec 16) (s : State) : (startStored len s).err = s.err := by
  unfold startStored endBlock; repeat (split <;> try rfl)

@[simp] theorem startStored_errPending (len : BitVec 16) (s : State) : (startStored len s).errPending = s.errPending := by
  unfold startStored endBlock; repeat (split <;> try rfl)

@[simp] theorem startStored_eosSignalled (len : BitVec 16) (s : State) : (startStored len s).eosSignalled = s.eosSignalled := by
  unfold startStored endBlock; repeat (split <;> try rfl)

@[simp] theorem startStored_fixedBuilt (len : BitVec 16) (s : State) : (startStored len s).fixedBuilt = s.fixedBuilt := by
  unfold startStored endBlock; repeat (split <;> try rfl)

@[simp] theorem startStored_buf (len : BitVec 16) (s : State) : (startStored len s).buf = s.buf := by
  unfold startStored endBlock; repeat (split <;> try rfl)

@[simp] theorem startStored_host (len : BitVec 16) (s : State) : (startStored len s).host = s.host := by
  unfold startStored endBlock; repeat (split <;> try rfl)

@[simp] theorem startStored_opStart (len : BitVec 16) (s : State) : (startStored len s).opStart = s.opStart := by
  unfold startStored endBlock; repeat (split <;> try rfl)

@[simp] theorem startStored_free (len : BitVec 16) (s : State) : (startStored len s).free = s.free := by
  unfold startStored endBlock; repeat (split <;> try rfl)

@[simp] theorem countStored_cfg (s : State) : (countStored s).cfg = s.cfg := by
  unfold countStored endBlock; repeat (split <;> try rfl)

@[simp] theorem countStored_params (s : State) : (countStored s).params = s.params := by
  unfold countStored endBlock; repeat (split <;> try rfl)

@[simp] theorem countStored_bits (s : State) : (countStored s).bits = s.bits := by
  unfold countStored endBlock; repeat (split <;> try rfl)

@[simp] theorem countStored_err (s : State) : (countStored s).err = s.err := by
  unfold countStored endBlock; repeat (split <;> try rfl)

@[simp] theorem countStored_errPending (s : State) : (countStored s).errPending = s.errPending := by
  unfold countStored endBlock; repeat (split <;> try rfl)

@[simp] theorem countStored_eosSignalled (s : State) : (countStored s).eosSignalled = s.eosSignalled := by
  unfold countStored endBlock; repeat (split <;> try rfl)

@[simp] theorem countStored_fixedBuilt (s : State) : (countStored s).fixedBuilt = s.fixedBuilt := by
  unfold countStored endBlock; repeat (split <;> try rfl)

@[simp] theorem countStored_buf (s : State) : (countStored s).buf = s.buf := by
  unfold countStored endBlock; repeat (split <;> try rfl)

@[simp] theorem countStored_host (s : State) : (countStored s).host = s.host := by
  unfold countStored endBlock; repeat (split <;> try rfl)

@[simp] theorem countStored_opStart (s : State) : (countStored s).opStart = s.opStart := by
  unfold countStored endBlock; repeat (split <;> try rfl)

@[simp] theorem countStored_free (s : State) : (countStored s).free = s.free := by
  unfold countStored endBlock; repeat (split <;> try rfl)

@[simp] theorem beginCall_cfg (c : HostCall) (want : Nat) (s : State) : (beginCall c want s).cfg = s.cfg := by
  unfold beginCall; cases s.host.call <;> rfl

@[simp] theorem beginCall_params (c : HostCall) (want : Nat) (s : State) : (beginCall c want s).params = s.params := by
  unfold beginCall; cases s.host.call <;> rfl

@[simp] theorem beginCall_bits (c : HostCall) (want : Nat) (s : State) : (beginCall c want s).bits = s.bits := by
  unfold beginCall; cases s.host.call <;> rfl

@[simp] theorem beginCall_phase (c : HostCall) (want : Nat) (s : State) : (beginCall c want s).phase = s.phase := by
  unfold beginCall; cases s.host.call <;> rfl

@[simp] theorem beginCall_err (c : HostCall) (want : Nat) (s : State) : (beginCall c want s).err = s.err := by
  unfold beginCall; cases s.host.call <;> rfl

@[simp] theorem beginCall_errPending (c : HostCall) (want : Nat) (s : State) : (beginCall c want s).errPending = s.errPending := by
  unfold beginCall; cases s.host.call <;> rfl

@[simp] theorem beginCall_eosSignalled (c : HostCall) (want : Nat) (s : State) : (beginCall c want s).eosSignalled = s.eosSignalled := by
  unfold beginCall; cases s.host.call <;> rfl

@[simp] theorem beginCall_fixedBuilt (c : HostCall) (want : Nat) (s : State) : (beginCall c want s).fixedBuilt = s.fixedBuilt := by
  unfold beginCall; cases s.host.call <;> rfl

@[simp] theorem beginCall_reg (c : HostCall) (want : Nat) (s : State) : (beginCall c want s).reg = s.reg := by
  unfold beginCall; cases s.host.call <;> rfl

@[simp] theorem beginCall_buf (c : HostCall) (want : Nat) (s : State) : (beginCall c want s).buf = s.buf := by
  unfold beginCall; cases s.host.call <;> rfl

@[simp] theorem beginCall_opStart (c : HostCall) (want : Nat) (s : State) : (beginCall c want s).opStart = s.opStart := by
  unfold beginCall; cases s.host.call <;> rfl

@[simp] theorem beginCall_free (c : HostCall) (want : Nat) (s : State) : (beginCall c want s).free = s.free := by
  unfold beginCall; cases s.host.call <;> rfl

@[simp] theorem endBlock_phase (s : State) :
    (endBlock s).phase = if s.reg.bfinal then .done else .header := rfl

end Sys2Proof.Machine
end

