-- ==== Sys2Proof/Laws/Buffer.lean ====
section
/-! SUPPORT. What the run buffer's operations do to the logical output and to the hidden bounds: one lemma
for each operation, which later proofs cite. -/

namespace Sys2Proof.Machine

/-! ### Free choices between two bounds -/

/-- A free choice is at most its upper bound. -/
theorem pickBetween_le (low high k : Nat) : pickBetween low high k ≤ high := by
  unfold pickBetween
  split
  · have := Nat.mod_lt k (show 0 < high - low + 1 by omega)
    omega
  · exact le_rfl

/-- A free choice is at least its lower bound, where the bounds leave one. -/
theorem le_pickBetween (low high k : Nat) (h : low ≤ high) : low ≤ pickBetween low high k := by
  unfold pickBetween
  split
  · exact Nat.le_add_right _ _
  · exact h

/-! ### The retained region -/

/-- What must stay readable only moves forward. -/
theorem retainFrom_mono (w : Nat) {d d' t t' : Nat} (hd : d ≤ d') (ht : t ≤ t') :
    retainFrom w d t ≤ retainFrom w d' t' := by
  unfold retainFrom
  omega

/-- The position that a legal distance reaches is retained (R74, R315). -/
theorem retainFrom_le_of_legal (w d t dist : Nat) (h : dist ≤ t) (h' : dist ≤ w) :
    retainFrom w d t ≤ t - dist := by
  unfold retainFrom
  omega

/-! ### `EnsureCapacity` (R187) -/

/-- `EnsureCapacity` changes only hidden state. -/
theorem ensureCapacity_view (cfg : Cfg) (g : GrowthTables) (k t1 : Nat) (b : Buf) :
    (ensureCapacity cfg g k t1 b).out = b.out ∧ (ensureCapacity cfg g k t1 b).drained = b.drained := by
  unfold ensureCapacity ensureCyclic ensureLinear ensureBlocks
  cases cfg.buffer <;> simp only <;> (repeat' split) <;> trivial

/-- After `EnsureCapacity` the region that the append needs is still retained. -/
theorem ensureCapacity_bounds (cfg : Cfg) (g : GrowthTables) (k t1 : Nat) (b : Buf)
    (hb : b.base ≤ retainFrom cfg.wsize b.drained t1) :
    (ensureCapacity cfg g k t1 b).rlo ≤ retainFrom cfg.wsize b.drained t1 ∧
      (ensureCapacity cfg g k t1 b).base ≤ retainFrom cfg.wsize b.drained t1 := by
  have hblock : ∀ first lo bs : Nat, first ≤ lo / bs → first * bs ≤ lo := fun first lo bs h =>
    le_trans (Nat.mul_le_mul_right bs h) (Nat.div_mul_le_self lo bs)
  unfold ensureCapacity ensureCyclic ensureLinear ensureBlocks
  cases cfg.buffer <;> simp only <;> (repeat' split) <;>
    first
    | exact ⟨pickBetween_le _ _ _, hb⟩
    | exact ⟨le_rfl, hb⟩
    | exact ⟨le_rfl, le_rfl⟩
    | exact ⟨pickBetween_le _ _ _, hblock _ _ _ (pickBetween_le _ _ _)⟩

/-! ### `Append` (R182) -/

/-- `Append(v)` on the output: one byte more at the end. -/
@[simp] theorem Buf_append_out (cfg : Cfg) (g : GrowthTables) (k : Nat) (v : Byte) (b : Buf) :
    (Buf.append cfg g k v b).out = b.out ++ [v] := by
  show (ensureCapacity _ _ _ _ _).out ++ [v] = _
  rw [(ensureCapacity_view _ _ _ _ _).1]

/-- `Append` delivers nothing. -/
@[simp] theorem Buf_append_drained (cfg : Cfg) (g : GrowthTables) (k : Nat) (v : Byte) (b : Buf) :
    (Buf.append cfg g k v b).drained = b.drained :=
  (ensureCapacity_view _ _ _ _ _).2

/-- `Append` counts one byte. -/
@[simp] theorem append_total (v : Byte) (s : State) : (append v s).total = s.total + 1 := by
  simp [State.total, Buf.total]

/-- `Append` keeps the retained region readable. -/
theorem append_retains (v : Byte) (s : State) (h : Buf.Retains s.cfg.wsize s.buf) :
    Buf.Retains s.cfg.wsize (append v s).buf := by
  obtain ⟨hd, _, hb⟩ := h
  have hm := retainFrom_mono s.cfg.wsize (le_refl s.buf.drained) (Nat.le_succ (Buf.total s.buf))
  have ht : Buf.total (append v s).buf = Buf.total s.buf + 1 := append_total v s
  unfold Buf.Retains
  rw [append_buf, Buf_append_drained, ← append_buf, ht]
  have he := ensureCapacity_bounds s.cfg s.params.growth s.free (Buf.total s.buf + 1) s.buf (hb.trans hm)
  exact ⟨Nat.le_succ_of_le hd, he.1, he.2⟩

/-! ### `CopyBack` (R183) -/

/-- The bytes that `CopyBack(L, D)` appends to an output, one at a time. -/
def copied (d : Nat) : Nat → List Byte → List Byte
  | 0, _ => []
  | n + 1, out =>
    let v := out.getD (out.length - d) 0
    v :: copied d n (out ++ [v])

/-- The copy of a retained distance runs to its end: it appends `copied`, and it changes the run buffer and
the free-value counter only. -/
theorem copyLoop_spec (d : Nat) (hd : 1 ≤ d) :
    ∀ (n : Nat) (s : State), d ≤ s.total → d ≤ s.cfg.wsize → Buf.Retains s.cfg.wsize s.buf →
      ∃ t, copyLoop d n s = .next t ∧ t = { s with buf := t.buf, free := t.free } ∧
        t.buf.out = s.buf.out ++ copied d n s.buf.out ∧ t.buf.drained = s.buf.drained ∧
        Buf.Retains s.cfg.wsize t.buf := by
  intro n
  induction n with
  | zero => exact fun s _ _ h => ⟨s, rfl, rfl, by simp [copied], rfl, h⟩
  | succ n ih =>
    intro s ht hw hr
    have hlt : s.total - d < s.buf.out.length := by
      have : s.total = s.buf.out.length := rfl
      omega
    have hread : Buf.memRead s.buf (s.total - d) = some (s.buf.out.getD (s.buf.out.length - d) 0) := by
      have hlo : s.buf.rlo ≤ s.total - d :=
        hr.2.1.trans (retainFrom_le_of_legal s.cfg.wsize s.buf.drained (Buf.total s.buf) d ht hw)
      have he : s.total - d = s.buf.out.length - d := rfl
      rw [Buf.memRead, if_pos hlo, he, List.getD_eq_getElem?_getD]
      rw [he] at hlt
      simp [hlt]
    have hstep := append_retains (s.buf.out.getD (s.buf.out.length - d) 0) s hr
    obtain ⟨t, h1, h2, h3, h4, h5⟩ :=
      ih (append (s.buf.out.getD (s.buf.out.length - d) 0) s) (by rw [append_total]; omega) hw hstep
    refine ⟨t, ?_, ?_, ?_, ?_, h5⟩
    · rw [copyLoop, hread]
      exact h1
    · rw [h2]
      rfl
    · rw [h3, append_buf, Buf_append_out, List.append_assoc]
      rfl
    · rw [h4, append_buf, Buf_append_drained]

end Sys2Proof.Machine
end

