-- ==== Sys2Proof/Laws/HostCalls.lean ====
section
/-! SUPPORT. What the parts of a read call can do: its beginning, its counts, its delivery. -/

namespace Sys2Proof.Machine

/-- A read call with none in progress is put in progress (R344). -/
theorem beginCall_none (c : HostCall) (want : Nat) (s : State) (h : s.host.call = none) :
    beginCall c want s = { s with host := { s.host with call := some c, want := want } } := by
  simp [beginCall, h]

/-- A read call in progress stays as it is (R344). -/
theorem beginCall_some (c d : HostCall) (want : Nat) (s : State) (h : s.host.call = some d) :
    beginCall c want s = s := by
  simp [beginCall, h]

/-- The argument of `Advance` in a `READBUF(n)` is from 1 to `n`, and `n` under `fill` (R343). -/
theorem readWant_bounds (s : State) (n : Nat) (h : 1 ≤ n) :
    1 ≤ readWant s n ∧ readWant s n ≤ n ∧ (s.params.readbufCount = .fill → readWant s n = n) := by
  unfold readWant
  cases s.params.readbufCount
  · simp [h]
  · exact ⟨le_pickBetween _ _ _ h, pickBetween_le _ _ _, nofun⟩

/-- The count of a `READBUF(n)` with a byte at hand is from 1 to `min(n, a)`, and that under `fill`
(R343). -/
theorem readCount_bounds (s : State) (n a : Nat) (hw : 1 ≤ s.host.want) (hn : 1 ≤ n) (ha : 1 ≤ a) :
    1 ≤ readCount s n a ∧ readCount s n a ≤ min n a ∧
      (s.params.readbufCount = .fill → readCount s n a = min n a) := by
  unfold readCount
  cases s.params.readbufCount
  · exact ⟨Nat.le_min.mpr ⟨hn, ha⟩, Nat.le_refl _, fun _ => rfl⟩
  · refine ⟨?_, pickBetween_le _ _ _, nofun⟩
    show 1 ≤ pickBetween (min s.host.want a) (min n a) (Config.freeNat s.free)
    unfold pickBetween
    split <;> omega

/-- The end of a `READBUF(n)` that delivers: a count in its bounds with that many next bytes (R343). -/
theorem finishReadbuf_delivers (n : Nat) (s : State) (he : s.errorFirst = false) (hn : 1 ≤ n)
    (ha : 1 ≤ s.atHand) (hw : 1 ≤ s.host.want) :
    ∃ k, 1 ≤ k ∧ k ≤ min n s.atHand ∧ (s.params.readbufCount = .fill → k = min n s.atHand) ∧
      finishReadbuf n s = { s with
        buf := { s.buf with drained := s.buf.drained + k }, free := s.free + 1
        host := answered (.count ((s.buf.out.drop s.buf.drained).take k)) s } := by
  obtain ⟨h1, h2, h3⟩ := readCount_bounds s n s.atHand hw hn ha
  have hk : 1 ≤ min n s.atHand := by omega
  refine ⟨readCount s n s.atHand, h1, h2, h3, ?_⟩
  simp only [finishReadbuf, he, hk, if_true]
  simp [deliver, respond, drain, Buf.drain, Buf.undelivered, answered]

/-- The end of a read call at `DONE` with no byte at hand (R346). -/
theorem finishEmpty_done (s : State) (h : s.phase = .done) : finishEmpty s = reportEos s := by
  simp [finishEmpty, h]

/-- The end of a read call in `FAILED` with no byte at hand (R347). -/
theorem finishEmpty_failed (s : State) (h : s.phase = .failed) : finishEmpty s = reportError s := by
  simp [finishEmpty, h]

end Sys2Proof.Machine
end

