-- ==== Sys2Proof/Laws/Parser.lean ====
section
/-! SUPPORT. The laws of stream bits and of the parser: fields and numbers, and what `NeedBits` and
`GetBits` do, said once in terms of the bits that the stream still holds. -/

namespace Sys2Proof

open Sys2Proof.Machine

/-! ### Fields and numbers (R62, R63) -/

namespace Machine

@[simp] theorem length_fieldBits (n v : Nat) : (fieldBits n v).length = n := by
  induction n generalizing v with
  | zero => rfl
  | succ n ih => simp [fieldBits, ih]

@[simp] theorem length_codeBits (n v : Nat) : (codeBits n v).length = n := by
  simp [codeBits]

@[simp] theorem length_byteBits (b : Byte) : (byteBits b).length = 8 := by
  simp [byteBits]

@[simp] theorem length_streamBits (l : List Byte) : (streamBits l).length = 8 * l.length := by
  induction l with
  | nil => rfl
  | cons b rest ih =>
    simp only [streamBits, List.flatMap_cons, List.length_append] at ih ⊢
    rw [ih, length_byteBits, List.length_cons]
    omega

theorem streamBits_append (l m : List Byte) : streamBits (l ++ m) = streamBits l ++ streamBits m := by
  simp [streamBits]

/-- A number written in a field of `n` bits is read back modulo `2^n`. -/
@[simp] theorem bitsToNat_fieldBits (n v : Nat) : bitsToNat (fieldBits n v) = v % 2 ^ n := by
  induction n generalizing v with
  | zero => simp [fieldBits, bitsToNat, Nat.mod_one]
  | succ n ih =>
    have hb : (v % 2 == 1).toNat = v % 2 := by
      rcases Nat.mod_two_eq_zero_or_one v with h | h <;> simp [h]
    rw [fieldBits, bitsToNat, ih, hb, pow_succ, Nat.mul_comm (2 ^ n) 2, Nat.mod_mul]

/-- A field read as a number and written again is the same field. -/
theorem fieldBits_bitsToNat (w : Bits) : fieldBits w.length (bitsToNat w) = w := by
  induction w with
  | nil => rfl
  | cons b rest ih =>
    have h1 : (b.toNat + 2 * bitsToNat rest) % 2 = b.toNat := by cases b <;> simp
    have h2 : (b.toNat + 2 * bitsToNat rest) / 2 = bitsToNat rest := by cases b <;> simp; omega
    rw [List.length_cons, bitsToNat, fieldBits, h1, h2, ih]
    cases b <;> rfl

/-- A field of `n` bits is less than `2^n`. -/
theorem bitsToNat_lt (w : Bits) : bitsToNat w < 2 ^ w.length := by
  induction w with
  | nil => simp [bitsToNat]
  | cons b rest ih =>
    rw [bitsToNat, List.length_cons, pow_succ]
    cases b <;> simp <;> omega

/-- A codeword's number is read back from its bits (R63). -/
theorem codeValue_codeBits (n v : Nat) : codeValue (codeBits n v) = v % 2 ^ n := by
  simp [codeValue, codeBits]

end Machine

/-! ### `NeedBits` (R223) -/

/-- The parser after it has taken `k` more bytes. -/
def Parser.fetched (p : Parser) (k : Nat) : Parser :=
  { p with
    bitbuf := p.bitbuf ++ streamBits ((p.input.drop p.ipos).take k)
    ipos := p.ipos + k }

/-- The end of the source is known only where it is: what a coherent parser says of `SRC_EOS`. -/
def Parser.EosHonest (p : Parser) : Prop :=
  p.srcEos = true → p.input.length ≤ p.ipos

@[simp] theorem Parser.fetched_zero (p : Parser) : p.fetched 0 = p := by
  simp [Parser.fetched, streamBits]

@[simp] theorem Parser.fetched_input (p : Parser) (k : Nat) : (p.fetched k).input = p.input := rfl

@[simp] theorem Parser.fetched_ipos (p : Parser) (k : Nat) : (p.fetched k).ipos = p.ipos + k := rfl

@[simp] theorem Parser.fetched_srcEos (p : Parser) (k : Nat) : (p.fetched k).srcEos = p.srcEos := rfl

/-- Taking bytes does not change which bits are still to come. -/
@[simp] theorem Parser.fetched_upcoming (p : Parser) (k : Nat) : (p.fetched k).upcoming = p.upcoming := by
  simp only [Parser.upcoming, Parser.fetched, List.append_assoc, ← streamBits_append]
  rw [← List.drop_drop, List.take_append_drop]

/-- How many bits are buffered after taking `k` bytes that the source still has. -/
theorem Parser.fetched_bitcnt (p : Parser) (k : Nat) (h : p.ipos + k ≤ p.input.length) :
    (p.fetched k).bitcnt = p.bitcnt + 8 * k := by
  have : min k (p.input.length - p.ipos) = k := by omega
  simp [Parser.bitcnt, Parser.fetched, this]

/-- Taking `k` bytes and then `j` more. -/
theorem Parser.fetched_fetched (p : Parser) (k j : Nat) :
    (p.fetched k).fetched j = p.fetched (k + j) := by
  simp only [Parser.fetched, List.append_assoc, ← streamBits_append, Nat.add_assoc]
  rw [List.take_add, List.drop_drop]

/-- One fetch: the next byte where the source has one, else the error kind of R223. -/
theorem Parser.fetchByte_eq (p : Parser) (h : p.EosHonest) :
    (p.ipos < p.input.length → p.fetchByte = .ok () (p.fetched 1)) ∧
      (p.input.length ≤ p.ipos → ∃ q, p.fetchByte = .raised .unexpectedEndOfStream q ∧
        q = { p with srcEos := true }) := by
  constructor
  · intro hlt
    have he : p.srcEos = false := by
      rcases hb : p.srcEos with _ | _
      · rfl
      · exact absurd (h hb) (by omega)
    have hd : (p.input.drop p.ipos).take 1 = [p.input[p.ipos]] := by
      rw [List.drop_eq_getElem_cons hlt]
      rfl
    simp [Parser.fetchByte, Parser.srcByte, he, Parser.fetched, hd, streamBits,
      List.getElem?_eq_getElem hlt]
  · intro hle
    refine ⟨_, ?_, rfl⟩
    rcases hb : p.srcEos with _ | _
    · simp [Parser.fetchByte, Parser.srcByte, hb, List.getElem?_eq_none hle]
    · obtain ⟨inp, ip, bb, se⟩ := p
      simp only at hb
      subst hb
      simp [Parser.fetchByte, Parser.srcByte]

/-- The loop of `NeedBits` with enough turns: it takes the fewest bytes that bring `n` bits, or raises
`UnexpectedEndOfStreamError` where the stream has fewer. -/
theorem Parser.needLoop_spec (n : Nat) :
    ∀ (fuel : Nat) (p : Parser), p.EosHonest → n ≤ p.bitcnt + 8 * fuel →
      (n ≤ p.upcoming.length →
        ∃ k, Parser.needLoop fuel n p = .ok () (p.fetched k) ∧ n ≤ (p.fetched k).bitcnt ∧
          (k = 0 ∨ (p.ipos + k ≤ p.input.length ∧ (p.fetched k).bitcnt < n + 8))) ∧
      (p.upcoming.length < n →
        ∃ q, Parser.needLoop fuel n p = .raised .unexpectedEndOfStream q ∧ q.input = p.input ∧
          p.ipos ≤ q.ipos ∧ (p.ipos ≤ p.input.length → q.ipos ≤ q.input.length)) := by
  have hup : ∀ p : Parser, p.upcoming.length = p.bitcnt + 8 * (p.input.length - p.ipos) := by
    intro p
    simp [Parser.upcoming, Parser.bitcnt]
  intro fuel
  induction fuel with
  | zero =>
    intro p _ hf
    refine ⟨fun _ => ⟨0, ?_, ?_, .inl rfl⟩, fun hlt => ?_⟩
    · rw [Parser.fetched_zero]
      rfl
    · rw [Parser.fetched_zero]
      omega
    · rw [hup] at hlt
      omega
  | succ fuel ih =>
    intro p he hf
    by_cases hn : n ≤ p.bitcnt
    · have hl : Parser.needLoop (fuel + 1) n p = .ok () p := by simp [Parser.needLoop, hn]
      refine ⟨fun _ => ⟨0, ?_, ?_, .inl rfl⟩, fun hlt => ?_⟩
      · rw [Parser.fetched_zero, hl]
      · rwa [Parser.fetched_zero]
      · rw [hup] at hlt
        omega
    · by_cases hi : p.ipos < p.input.length
      · have hs : Parser.needLoop (fuel + 1) n p = Parser.needLoop fuel n (p.fetched 1) := by
          simp [Parser.needLoop, hn, (p.fetchByte_eq he).1 hi, Fetched.bind]
        have hc := p.fetched_bitcnt 1 hi
        have he' : (p.fetched 1).EosHonest := fun hb => absurd (he hb) (by omega)
        obtain ⟨i1, i2⟩ := ih (p.fetched 1) he' (by omega)
        rw [hs]
        refine ⟨fun h => ?_, fun h => ?_⟩
        · obtain ⟨k, h1, h2, h3⟩ := i1 (by rwa [Parser.fetched_upcoming])
          rw [Parser.fetched_fetched, Nat.add_comm 1 k] at h1 h2 h3
          refine ⟨k + 1, h1, h2, .inr ?_⟩
          rcases h3 with rfl | ⟨h3, h4⟩
          · refine ⟨hi, ?_⟩
            have hc' : (p.fetched (0 + 1)).bitcnt = p.bitcnt + 8 := hc
            omega
          · refine ⟨?_, h4⟩
            simp only [Parser.fetched_ipos, Parser.fetched_input] at h3
            omega
        · obtain ⟨q, h1, h2, h3, h4⟩ := i2 (by rwa [Parser.fetched_upcoming])
          exact ⟨q, h1, h2, by rw [Parser.fetched_ipos] at h3; omega, fun _ => h4 hi⟩
      · obtain ⟨q, hq, hq'⟩ := (p.fetchByte_eq he).2 (by omega)
        refine ⟨fun h => ?_, fun _ => ⟨q, ?_, ?_, ?_, ?_⟩⟩
        · rw [hup] at h
          omega
        · simp [Parser.needLoop, hn, hq, Fetched.bind]
        · rw [hq']
        · rw [hq']
        · rw [hq']
          exact id

/-! ### `GetBits` (R226) -/

/-- `GetBits(n)` where the stream still holds the `n` bits `w` and then `rest`: it answers their number,
`rest` is what is left, and the fewest bytes have been taken. -/
theorem Parser.getBits_ok (p : Parser) (w rest : Bits) (he : p.EosHonest)
    (hu : p.upcoming = w ++ rest) :
    ∃ k, p.getBits w.length = .ok (bitsToNat w) ((p.fetched k).dropBits w.length) ∧
      ((p.fetched k).dropBits w.length).upcoming = rest ∧ w.length ≤ (p.fetched k).bitcnt ∧
      (k = 0 ∨ (p.ipos + k ≤ p.input.length ∧ (p.fetched k).bitcnt < w.length + 8)) := by
  have hlen : w.length ≤ p.upcoming.length := by
    rw [hu, List.length_append]
    omega
  obtain ⟨k, h1, h2, h3⟩ := (Parser.needLoop_spec w.length w.length p he (by omega)).1 hlen
  have hb : (p.fetched k).bitbuf.take w.length = w := by
    have := congrArg (List.take w.length) ((p.fetched_upcoming k).trans hu)
    rw [Parser.upcoming, List.take_append_of_le_length h2, List.take_left] at this
    exact this
  refine ⟨k, ?_, ?_, h2, h3⟩
  · simp [Parser.getBits, Parser.needBits, h1, Fetched.bind, Parser.peekBits, hb]
  · have := congrArg (List.drop w.length) ((p.fetched_upcoming k).trans hu)
    rw [Parser.upcoming, List.drop_append_of_le_length h2, List.drop_left] at this
    exact this

/-- `GetBits(n)` where the stream holds fewer than `n` bits raises `UnexpectedEndOfStreamError` (R223,
R232). -/
theorem Parser.getBits_eos (p : Parser) (n : Nat) (he : p.EosHonest) (h : p.upcoming.length < n) :
    ∃ q, p.getBits n = .raised .unexpectedEndOfStream q ∧ q.input = p.input ∧ p.ipos ≤ q.ipos ∧
      (p.ipos ≤ p.input.length → q.ipos ≤ q.input.length) := by
  obtain ⟨q, h1, h2⟩ := (Parser.needLoop_spec n n p he (by omega)).2 h
  exact ⟨q, by simp [Parser.getBits, Parser.needBits, h1, Fetched.bind], h2⟩

/-- A coherent parser is honest about the end of the source. -/
theorem Parser.Coherent.eosHonest {p : Parser} (h : p.Coherent) : p.EosHonest :=
  fun hb => le_of_eq (h.2.2.2 hb).symm

/-- A parser at the first bit of a source is coherent. -/
theorem Parser.start_coherent (bytes : List Byte) : (Parser.start bytes).Coherent := by
  simp [Parser.Coherent, Parser.start, Parser.upcoming, Parser.bp, Parser.bitcnt]

/-- A parser at the first bit of a source has no bit buffered. -/
theorem Parser.start_lazy (bytes : List Byte) : (Parser.start bytes).Lazy := by
  simp [Parser.Lazy, Parser.start, Parser.bitcnt]

end Sys2Proof
end

