-- ==== Sys2Proof/Laws/Ops.lean ====
section
/-! SUPPORT. One lemma for each shared operation of the machine: everything it can do. -/

namespace Sys2Proof.Machine

/-! ### Raising an error kind (R410, R412) -/

/-- After a fault at most the bytes taken so far have been taken from the source (R412). -/
theorem faultIpos_le (k opStart taken : Nat) : faultIpos k opStart taken ≤ taken :=
  pickBetween_le _ _ _

/-- A fault leaves at least the bytes that the completed operations needed (R412). -/
theorem le_faultIpos (k opStart taken : Nat) (h : opStart ≤ taken) : opStart ≤ faultIpos k opStart taken :=
  (le_min le_rfl h).trans (le_pickBetween _ _ _ (min_le_right _ _))

/-- The code of every error kind fits `ERR`, and is not 0 (R400). -/
theorem errCode_ne_zero (e : ErrKind) : errCode e ≠ 0 := by
  cases e <;> decide

/-- What `raise` leaves: the phase and the status, the output untouched, and the bound on `IPOS`. -/
theorem raise_spec (e : ErrKind) (s : State) (h : s.err = none) :
    (raise e s).phase = .failed ∧ (raise e s).errReg = errCode e ∧ (raise e s).errPending = true ∧
      (raise e s).buf = s.buf ∧ (raise e s).cfg = s.cfg ∧ (raise e s).host = s.host ∧
      (raise e s).bits.ipos ≤ s.bits.ipos := by
  refine ⟨rfl, ?_, rfl, rfl, rfl, rfl, faultIpos_le _ _ _⟩
  simp [State.errReg, h]

/-! ### `CopyBack` and the distance part (R183, R194, R195, R304, R315) -/

/-- `CopyBack` of a legal distance, in every buffer strategy: no check of a strategy can fire. -/
theorem copyBack_spec (l d : Nat) (s : State) (h1 : 1 ≤ d) (ht : d ≤ s.total) (hw : d ≤ s.cfg.wsize)
    (hr : Buf.Retains s.cfg.wsize s.buf) :
    ∃ t, copyBack l d s = .next t ∧ t = { s with buf := t.buf, free := t.free } ∧
      t.buf.out = s.buf.out ++ copied d l s.buf.out ∧ t.buf.drained = s.buf.drained ∧
      Buf.Retains s.cfg.wsize t.buf := by
  have hc := copyLoop_spec d h1 l s ht hw hr
  have hs : strictCheck d s = true := decide_eq_true ⟨h1, le_min ht hw⟩
  have hl : lenientCheck d s = true :=
    decide_eq_true (hr.2.2.trans (retainFrom_le_of_legal _ _ _ _ ht hw))
  unfold copyBack
  cases s.cfg.buffer <;> simp only [hs, hl, if_true] <;> exact hc

/-- Every distance is at least 1 (R315). -/
theorem one_le_distanceOf (mode : Mode) (c x dist : Nat) (h : distanceOf mode c x = some dist) :
    1 ≤ dist := by
  have ht : ∀ r ∈ distTable, 1 ≤ r.2 := by decide
  have hrow : ∀ r, distRow mode c = some r → 1 ≤ r.2 := by
    intro r hr
    unfold distRow at hr
    split at hr
    · cases hr; decide
    · cases hr; decide
    · exact ht _ (List.mem_of_getElem? hr)
  unfold distanceOf at h
  rcases hr : distRow mode c with _ | ⟨e, b⟩
  · simp [hr] at h
  · have := hrow _ hr
    simp only [hr, Option.some.injEq] at h this
    omega

/-- A legal distance part copies. -/
theorem distancePart_legal (c x dist : Nat) (s : State) (hd : distanceOf s.cfg.mode c x = some dist)
    (ht : dist ≤ s.total) (hw : dist ≤ s.cfg.wsize) (hr : Buf.Retains s.cfg.wsize s.buf) :
    ∃ t, distancePart c x s = .next t ∧
      t = { s with
        reg := { s.reg with dsym := BitVec.ofNat 5 c, mdist := BitVec.ofNat 17 dist }
        buf := t.buf, free := t.free } ∧
      t.buf.out = s.buf.out ++ copied dist s.reg.mlen.toNat s.buf.out ∧
      t.buf.drained = s.buf.drained ∧ Buf.Retains s.cfg.wsize t.buf := by
  have h1 := one_le_distanceOf _ _ _ _ hd
  have hl : legalDistance dist { s with reg := { s.reg with dsym := BitVec.ofNat 5 c } } = true :=
    decide_eq_true ⟨ht, hw⟩
  unfold distancePart copyFrom
  simp only [hd, hl, if_true]
  exact copyBack_spec s.reg.mlen.toNat dist _ h1 ht hw hr

/-- An illegal distance part raises `InvalidBackReferenceError` and appends nothing. -/
theorem distancePart_illegal (c x : Nat) (s : State)
    (h : ∀ dist, distanceOf s.cfg.mode c x = some dist → s.total < dist ∨ s.cfg.wsize < dist) :
    ∃ s1, distancePart c x s = .next (raise .invalidBackReference s1) ∧
      s1 = { s with reg := s1.reg } := by
  unfold distancePart
  rcases hd : distanceOf s.cfg.mode c x with _ | dist
  · exact ⟨_, rfl, rfl⟩
  · have hl : legalDistance dist { s with reg := { s.reg with dsym := BitVec.ofNat 5 c } } = false := by
      refine decide_eq_false fun hc => ?_
      have h1 : dist ≤ s.total := hc.1
      have h2 : dist ≤ s.cfg.wsize := hc.2
      rcases h dist hd with hlt | hlt <;> omega
    simp only [copyFrom, hl]
    exact ⟨_, rfl, rfl⟩

/-! ### One step -/

/-- What one step is: a stream operation of the call in progress, the completion of that call, the host's
next call, or nothing. -/
theorem step_cases (s : State) :
    (∃ c, s.host.call = some c ∧ s.needsMore s.host.want = true ∧ step s = streamStep s) ∨
    (∃ c, s.host.call = some c ∧ s.needsMore s.host.want = false ∧ step s = exec (callInstr c) s) ∨
    (∃ c rest, s.host.call = none ∧ s.host.calls = c :: rest ∧
      step s = exec (callInstr c) (takeCall rest s)) ∨
    (s.host.call = none ∧ s.host.calls = [] ∧ step s = .next s) := by
  unfold step
  rcases hc : s.host.call with _ | c
  · rcases hl : s.host.calls with _ | ⟨c, rest⟩
    · exact .inr (.inr (.inr ⟨rfl, rfl, rfl⟩))
    · exact .inr (.inr (.inl ⟨c, rest, rfl, rfl, rfl⟩))
  · rcases hn : s.needsMore s.host.want
    · exact .inr (.inl ⟨c, rfl, rfl, by simp⟩)
    · exact .inl ⟨c, rfl, rfl, by simp⟩

/-- What one stream operation is: the instruction read, an error kind raised by the reading, or a stop. -/
theorem streamStep_cases (s : State) :
    (∃ i p, fetchElem s = .ok i p ∧ streamStep s = exec i (atElement p s)) ∨
    (∃ e p, fetchElem s = .raised e p ∧ streamStep s = .next (raise e (atElement p s))) ∨
    (∃ r, fetchElem s = .rejected r ∧ streamStep s = .fault (stopOf r)) := by
  unfold streamStep
  rcases fetchElem s with ⟨i, p⟩ | ⟨e, p⟩ | r
  · exact .inl ⟨i, p, rfl, rfl⟩
  · exact .inr (.inl ⟨e, p, rfl, rfl⟩)
  · exact .inr (.inr ⟨r, rfl, rfl⟩)

/-! ### `Build` (R140) -/

/-- `Build` fails exactly where the health check does, whatever the strategy. -/
theorem buildTable_eq_none (cfg : Cfg) (params : Params) (which : Which) (lens : List Nat) (maxl : Nat) :
    buildTable cfg params which lens maxl = none ↔
      checkHealth params.emptyDistCode which lens maxl = none := by
  unfold buildTable
  cases checkHealth params.emptyDistCode which lens maxl <;> simp

/-- The table that `Build` makes: its kind and its longest length (R43). -/
theorem buildTable_eq_some (cfg : Cfg) (params : Params) (which : Which) (lens : List Nat) (maxl : Nat)
    (t : Table) (h : buildTable cfg params which lens maxl = some t) :
    checkHealth params.emptyDistCode which lens maxl = some t.kind ∧ t.maxbits = maxLen lens ∧
      t.store = buildStore cfg lens := by
  unfold buildTable at h
  rcases hk : checkHealth params.emptyDistCode which lens maxl with _ | k
  · simp [hk] at h
  · simp only [hk, Option.some.injEq] at h
    subst h
    exact ⟨rfl, rfl, rfl⟩

end Sys2Proof.Machine
end

