-- ==== Sys2Proof/Laws/PerInstr.lean ====
section
/-! SUPPORT. The statements made of every instruction, as syntax.

`RowEncoding`: the stream encoding of a row is no longer than its format allows (R91 to R101, R105, R322):
3 header bits, 32 bits and a pad for a stored header, 14 for the counts, a codeword of at most 7 or 15 bits
with the row's extra fields, and for a whole match 48 bits in `DEFLATE` mode or 60 in `DEFLATE64` mode. -/

namespace Sys2Proof

open Sys2Proof.Machine

namespace Laws.RowEncoding

/-- The code lengths and the pad of an encoding context are within the limits of the formats (R10, R93,
R130). -/
structure Bounded (c : EncCtx) : Prop where
  pad : c.pad ≤ 7
  cl : ∀ l ∈ c.cl, l ≤ maxBitsCl
  ll : ∀ l ∈ c.ll, l ≤ maxBitsData
  d : ∀ l ∈ c.d, l ≤ maxBitsData

/-- The longest distance part of a match: a codeword and its extra bits (R99, R100). -/
def distMax : Mode → Nat
  | .deflate => 28
  | .deflate64 => 29

/-- The longest match (R105). -/
def matchMax : Mode → Nat
  | .deflate => 48
  | .deflate64 => 60

/-- The most bits that the encoding of a row has. -/
def maxBits (mode : Mode) : Instr → Nat
  | .bhdr _ _ => 3
  | .blkStored _ => 3
  | .blkFixed _ => 3
  | .blkDynamic _ => 3
  | .blkReserved _ => 3
  | .storedHdr _ _ => 39
  | .storedByte _ => 8
  | .dynCounts _ _ _ => 14
  | .dynCllen _ => 3
  | .dynClbuild => 0
  | .clLen0 => 7
  | .clLen1 => 7
  | .clLen2 => 7
  | .clLen3 => 7
  | .clLen4 => 7
  | .clLen5 => 7
  | .clLen6 => 7
  | .clLen7 => 7
  | .clLen8 => 7
  | .clLen9 => 7
  | .clLen10 => 7
  | .clLen11 => 7
  | .clLen12 => 7
  | .clLen13 => 7
  | .clLen14 => 7
  | .clLen15 => 7
  | .clRep16 _ => 9
  | .clZrep17 _ => 10
  | .clZrep18 _ => 14
  | .dynBuild => 0
  | .lit _ => 15
  | .eob => 15
  | .matchL257 _ => matchMax mode
  | .matchL258 _ => matchMax mode
  | .matchL259 _ => matchMax mode
  | .matchL260 _ => matchMax mode
  | .matchL261 _ => matchMax mode
  | .matchL262 _ => matchMax mode
  | .matchL263 _ => matchMax mode
  | .matchL264 _ => matchMax mode
  | .matchL265 _ _ => matchMax mode
  | .matchL266 _ _ => matchMax mode
  | .matchL267 _ _ => matchMax mode
  | .matchL268 _ _ => matchMax mode
  | .matchL269 _ _ => matchMax mode
  | .matchL270 _ _ => matchMax mode
  | .matchL271 _ _ => matchMax mode
  | .matchL272 _ _ => matchMax mode
  | .matchL273 _ _ => matchMax mode
  | .matchL274 _ _ => matchMax mode
  | .matchL275 _ _ => matchMax mode
  | .matchL276 _ _ => matchMax mode
  | .matchL277 _ _ => matchMax mode
  | .matchL278 _ _ => matchMax mode
  | .matchL279 _ _ => matchMax mode
  | .matchL280 _ _ => matchMax mode
  | .matchL281 _ _ => matchMax mode
  | .matchL282 _ _ => matchMax mode
  | .matchL283 _ _ => matchMax mode
  | .matchL284 _ _ => matchMax mode
  | .matchL285 _ => matchMax mode
  | .matchL285D64 _ _ => matchMax mode
  | .llInvalid _ => 15
  | .dist0 => distMax mode
  | .dist1 => distMax mode
  | .dist2 => distMax mode
  | .dist3 => distMax mode
  | .dist4 _ => distMax mode
  | .dist5 _ => distMax mode
  | .dist6 _ => distMax mode
  | .dist7 _ => distMax mode
  | .dist8 _ => distMax mode
  | .dist9 _ => distMax mode
  | .dist10 _ => distMax mode
  | .dist11 _ => distMax mode
  | .dist12 _ => distMax mode
  | .dist13 _ => distMax mode
  | .dist14 _ => distMax mode
  | .dist15 _ => distMax mode
  | .dist16 _ => distMax mode
  | .dist17 _ => distMax mode
  | .dist18 _ => distMax mode
  | .dist19 _ => distMax mode
  | .dist20 _ => distMax mode
  | .dist21 _ => distMax mode
  | .dist22 _ => distMax mode
  | .dist23 _ => distMax mode
  | .dist24 _ => distMax mode
  | .dist25 _ => distMax mode
  | .dist26 _ => distMax mode
  | .dist27 _ => distMax mode
  | .dist28 _ => distMax mode
  | .dist29 _ => distMax mode
  | .distInvalid _ => 15
  | .dist30D64 _ => distMax mode
  | .dist31D64 _ => distMax mode
  | .fixedLl0To143 _ => 8
  | .fixedLl144To255 _ => 9
  | .fixedLl256To279 _ _ _ => matchMax mode
  | .fixedLl280To287 _ _ _ => matchMax mode
  | .fixedD0To31 _ => distMax mode
  | .construct _ _ => 0
  | .read => 0
  | .readbuf _ => 0
  | .close => 0

/-- The encoding of the row, where it has one, is no longer than its format allows. -/
def Statement (i : Instr) : Prop :=
  ∀ (c : EncCtx) (w : Bits), Bounded c → encode c i = some w → w.length ≤ maxBits c.mode i

/-! ### The parts -/

/-- A canonical codeword is as long as its symbol's code length (R133). -/
theorem codewordOf_length (lens : List Nat) (m s : Nat) (w : Bits) (h : ∀ l ∈ lens, l ≤ m)
    (hw : codewordOf lens s = some w) : w.length ≤ m := by
  unfold codewordOf codewordStrings at hw
  rw [List.getElem?_map] at hw
  rcases hz : (lens.zip (canonicalConstruct lens))[s]? with _ | ⟨len, cw⟩
  · simp [hz] at hw
  · have hm : len ∈ lens := (List.of_mem_zip (List.mem_of_getElem? hz)).1
    rcases cw with _ | v
    · simp [hz] at hw
    · simp only [hz, Option.map_some, Option.getD_some, Option.some.injEq] at hw
      rw [← hw, length_codeBits]
      exact h len hm

/-- The extra bits of a distance symbol (R99, R100). -/
theorem dextra_le (mode : Mode) (c : BitVec 5) : 15 + dextra mode c.toNat ≤ distMax mode := by
  revert c
  cases mode <;> decide

/-- The extra bits of a length symbol (R98, R100). -/
theorem lextra_le (mode : Mode) (s : Nat) : 15 + lextra mode s + distMax mode ≤ matchMax mode := by
  unfold lextra lengthRow
  have ht : ∀ e b k : Nat, lengthTable[k]? = some (e, b) → e ≤ 5 := by
    intro e b k hk
    exact (show ∀ r ∈ lengthTable, r.1 ≤ 5 by decide) _ (List.mem_of_getElem? hk)
  split
  · rename_i e b h
    split at h
    · simp at h
    · split at h
      · cases mode <;> simp at h <;> simp [distMax, matchMax, ← h.1]
      · have := ht _ _ _ h
        cases mode <;> simp only [distMax, matchMax] <;> omega
  · cases mode <;> simp [distMax, matchMax]

/-- The distance part of a match. -/
theorem encodeDist_length (c : EncCtx) (d : DistField) (w : Bits) (hb : Bounded c)
    (hw : encodeDist c d = some w) : w.length ≤ distMax c.mode := by
  unfold encodeDist at hw
  obtain ⟨v, hv, rfl⟩ := Option.map_eq_some_iff.mp hw
  have := codewordOf_length c.d maxBitsData _ v hb.d hv
  have := dextra_le c.mode d.sym
  simp only [maxBitsData] at *
  simp only [List.length_append, length_fieldBits]
  omega

/-- A whole match. -/
theorem encodeMatch_length (c : EncCtx) (s x : Nat) (d : DistField) (w : Bits) (hb : Bounded c)
    (hw : encodeMatch c s x d = some w) : w.length ≤ matchMax c.mode := by
  unfold encodeMatch at hw
  obtain ⟨v, hv, hw⟩ := Option.bind_eq_some_iff.mp hw
  obtain ⟨u, hu, rfl⟩ := Option.map_eq_some_iff.mp hw
  have := codewordOf_length c.ll maxBitsData _ v hb.ll hv
  have := encodeDist_length c d u hb hu
  have := lextra_le c.mode s
  simp only [maxBitsData] at *
  simp only [List.length_append, length_fieldBits]
  omega

/-- A distance part in a Fixed block. -/
theorem encodeFixedDist_length (mode : Mode) (d : DistField) :
    (encodeFixedDist mode d).length + 10 ≤ distMax mode := by
  have := dextra_le mode d.sym
  simp only [encodeFixedDist, List.length_append, length_fieldBits, length_codeBits]
  omega

/-! ### The rows -/

theorem bhdr (final : Bool) (type : BitVec 2) : Statement (.bhdr final type) := by
  intro c w _ hw
  obtain rfl := Option.some.inj hw
  simp [maxBits, encodeHeader]

theorem blkStored (final : Bool) : Statement (.blkStored final) := by
  intro c w _ hw
  obtain rfl := Option.some.inj hw
  simp [maxBits, encodeHeader]

theorem blkFixed (final : Bool) : Statement (.blkFixed final) := by
  intro c w _ hw
  obtain rfl := Option.some.inj hw
  simp [maxBits, encodeHeader]

theorem blkDynamic (final : Bool) : Statement (.blkDynamic final) := by
  intro c w _ hw
  obtain rfl := Option.some.inj hw
  simp [maxBits, encodeHeader]

theorem blkReserved (final : Bool) : Statement (.blkReserved final) := by
  intro c w _ hw
  obtain rfl := Option.some.inj hw
  simp [maxBits, encodeHeader]

theorem storedHdr (len : BitVec 16) (nlen : BitVec 16) : Statement (.storedHdr len nlen) := by
  intro c w hb hw
  obtain rfl := Option.some.inj hw
  have := hb.pad
  simp only [maxBits, List.length_append, List.length_replicate, length_fieldBits]
  omega

theorem storedByte (v : Byte) : Statement (.storedByte v) := by
  intro c w _ hw
  obtain rfl := Option.some.inj hw
  simp [maxBits]

theorem dynCounts (hlit : BitVec 5) (hdist : BitVec 5) (hclen : BitVec 4) : Statement (.dynCounts hlit hdist hclen) := by
  intro c w _ hw
  obtain rfl := Option.some.inj hw
  simp [maxBits]

theorem dynCllen (len : BitVec 3) : Statement (.dynCllen len) := by
  intro c w _ hw
  obtain rfl := Option.some.inj hw
  simp [maxBits]

theorem dynClbuild : Statement .dynClbuild := by
  intro c w _ hw
  obtain rfl := Option.some.inj hw
  simp [maxBits]

theorem clLen0 : Statement .clLen0 :=
  fun _ w hb hw => codewordOf_length _ _ _ w hb.cl hw

theorem clLen1 : Statement .clLen1 :=
  fun _ w hb hw => codewordOf_length _ _ _ w hb.cl hw

theorem clLen2 : Statement .clLen2 :=
  fun _ w hb hw => codewordOf_length _ _ _ w hb.cl hw

theorem clLen3 : Statement .clLen3 :=
  fun _ w hb hw => codewordOf_length _ _ _ w hb.cl hw

theorem clLen4 : Statement .clLen4 :=
  fun _ w hb hw => codewordOf_length _ _ _ w hb.cl hw

theorem clLen5 : Statement .clLen5 :=
  fun _ w hb hw => codewordOf_length _ _ _ w hb.cl hw

theorem clLen6 : Statement .clLen6 :=
  fun _ w hb hw => codewordOf_length _ _ _ w hb.cl hw

theorem clLen7 : Statement .clLen7 :=
  fun _ w hb hw => codewordOf_length _ _ _ w hb.cl hw

theorem clLen8 : Statement .clLen8 :=
  fun _ w hb hw => codewordOf_length _ _ _ w hb.cl hw

theorem clLen9 : Statement .clLen9 :=
  fun _ w hb hw => codewordOf_length _ _ _ w hb.cl hw

theorem clLen10 : Statement .clLen10 :=
  fun _ w hb hw => codewordOf_length _ _ _ w hb.cl hw

theorem clLen11 : Statement .clLen11 :=
  fun _ w hb hw => codewordOf_length _ _ _ w hb.cl hw

theorem clLen12 : Statement .clLen12 :=
  fun _ w hb hw => codewordOf_length _ _ _ w hb.cl hw

theorem clLen13 : Statement .clLen13 :=
  fun _ w hb hw => codewordOf_length _ _ _ w hb.cl hw

theorem clLen14 : Statement .clLen14 :=
  fun _ w hb hw => codewordOf_length _ _ _ w hb.cl hw

theorem clLen15 : Statement .clLen15 :=
  fun _ w hb hw => codewordOf_length _ _ _ w hb.cl hw

theorem clRep16 (x : BitVec 2) : Statement (.clRep16 x) := by
  intro c w hb hw
  obtain ⟨v, hv, rfl⟩ := Option.map_eq_some_iff.mp hw
  have := codewordOf_length _ _ _ v hb.cl hv
  simp only [maxBitsCl, maxBits, List.length_append, length_fieldBits] at *
  omega

theorem clZrep17 (x : BitVec 3) : Statement (.clZrep17 x) := by
  intro c w hb hw
  obtain ⟨v, hv, rfl⟩ := Option.map_eq_some_iff.mp hw
  have := codewordOf_length _ _ _ v hb.cl hv
  simp only [maxBitsCl, maxBits, List.length_append, length_fieldBits] at *
  omega

theorem clZrep18 (x : BitVec 7) : Statement (.clZrep18 x) := by
  intro c w hb hw
  obtain ⟨v, hv, rfl⟩ := Option.map_eq_some_iff.mp hw
  have := codewordOf_length _ _ _ v hb.cl hv
  simp only [maxBitsCl, maxBits, List.length_append, length_fieldBits] at *
  omega

theorem dynBuild : Statement .dynBuild := by
  intro c w _ hw
  obtain rfl := Option.some.inj hw
  simp [maxBits]

theorem lit (b : Byte) : Statement (.lit b) :=
  fun _ w hb hw => codewordOf_length _ _ _ w hb.ll hw

theorem eob : Statement .eob :=
  fun _ w hb hw => codewordOf_length _ _ _ w hb.ll hw

theorem matchL257 (d : DistField) : Statement (.matchL257 d) :=
  fun c w hb hw => encodeMatch_length c _ _ _ w hb hw

theorem matchL258 (d : DistField) : Statement (.matchL258 d) :=
  fun c w hb hw => encodeMatch_length c _ _ _ w hb hw

theorem matchL259 (d : DistField) : Statement (.matchL259 d) :=
  fun c w hb hw => encodeMatch_length c _ _ _ w hb hw

theorem matchL260 (d : DistField) : Statement (.matchL260 d) :=
  fun c w hb hw => encodeMatch_length c _ _ _ w hb hw

theorem matchL261 (d : DistField) : Statement (.matchL261 d) :=
  fun c w hb hw => encodeMatch_length c _ _ _ w hb hw

theorem matchL262 (d : DistField) : Statement (.matchL262 d) :=
  fun c w hb hw => encodeMatch_length c _ _ _ w hb hw

theorem matchL263 (d : DistField) : Statement (.matchL263 d) :=
  fun c w hb hw => encodeMatch_length c _ _ _ w hb hw

theorem matchL264 (d : DistField) : Statement (.matchL264 d) :=
  fun c w hb hw => encodeMatch_length c _ _ _ w hb hw

theorem matchL265 (x : BitVec 1) (d : DistField) : Statement (.matchL265 x d) :=
  fun c w hb hw => encodeMatch_length c _ _ _ w hb hw

theorem matchL266 (x : BitVec 1) (d : DistField) : Statement (.matchL266 x d) :=
  fun c w hb hw => encodeMatch_length c _ _ _ w hb hw

theorem matchL267 (x : BitVec 1) (d : DistField) : Statement (.matchL267 x d) :=
  fun c w hb hw => encodeMatch_length c _ _ _ w hb hw

theorem matchL268 (x : BitVec 1) (d : DistField) : Statement (.matchL268 x d) :=
  fun c w hb hw => encodeMatch_length c _ _ _ w hb hw

theorem matchL269 (x : BitVec 2) (d : DistField) : Statement (.matchL269 x d) :=
  fun c w hb hw => encodeMatch_length c _ _ _ w hb hw

theorem matchL270 (x : BitVec 2) (d : DistField) : Statement (.matchL270 x d) :=
  fun c w hb hw => encodeMatch_length c _ _ _ w hb hw

theorem matchL271 (x : BitVec 2) (d : DistField) : Statement (.matchL271 x d) :=
  fun c w hb hw => encodeMatch_length c _ _ _ w hb hw

theorem matchL272 (x : BitVec 2) (d : DistField) : Statement (.matchL272 x d) :=
  fun c w hb hw => encodeMatch_length c _ _ _ w hb hw

theorem matchL273 (x : BitVec 3) (d : DistField) : Statement (.matchL273 x d) :=
  fun c w hb hw => encodeMatch_length c _ _ _ w hb hw

theorem matchL274 (x : BitVec 3) (d : DistField) : Statement (.matchL274 x d) :=
  fun c w hb hw => encodeMatch_length c _ _ _ w hb hw

theorem matchL275 (x : BitVec 3) (d : DistField) : Statement (.matchL275 x d) :=
  fun c w hb hw => encodeMatch_length c _ _ _ w hb hw

theorem matchL276 (x : BitVec 3) (d : DistField) : Statement (.matchL276 x d) :=
  fun c w hb hw => encodeMatch_length c _ _ _ w hb hw

theorem matchL277 (x : BitVec 4) (d : DistField) : Statement (.matchL277 x d) :=
  fun c w hb hw => encodeMatch_length c _ _ _ w hb hw

theorem matchL278 (x : BitVec 4) (d : DistField) : Statement (.matchL278 x d) :=
  fun c w hb hw => encodeMatch_length c _ _ _ w hb hw

theorem matchL279 (x : BitVec 4) (d : DistField) : Statement (.matchL279 x d) :=
  fun c w hb hw => encodeMatch_length c _ _ _ w hb hw

theorem matchL280 (x : BitVec 4) (d : DistField) : Statement (.matchL280 x d) :=
  fun c w hb hw => encodeMatch_length c _ _ _ w hb hw

theorem matchL281 (x : BitVec 5) (d : DistField) : Statement (.matchL281 x d) :=
  fun c w hb hw => encodeMatch_length c _ _ _ w hb hw

theorem matchL282 (x : BitVec 5) (d : DistField) : Statement (.matchL282 x d) :=
  fun c w hb hw => encodeMatch_length c _ _ _ w hb hw

theorem matchL283 (x : BitVec 5) (d : DistField) : Statement (.matchL283 x d) :=
  fun c w hb hw => encodeMatch_length c _ _ _ w hb hw

theorem matchL284 (x : BitVec 5) (d : DistField) : Statement (.matchL284 x d) :=
  fun c w hb hw => encodeMatch_length c _ _ _ w hb hw

theorem matchL285 (d : DistField) : Statement (.matchL285 d) :=
  fun c w hb hw => encodeMatch_length c _ _ _ w hb hw

theorem matchL285D64 (x : BitVec 16) (d : DistField) : Statement (.matchL285D64 x d) :=
  fun c w hb hw => encodeMatch_length c _ _ _ w hb hw

theorem llInvalid (n : BitVec 1) : Statement (.llInvalid n) :=
  fun _ w hb hw => codewordOf_length _ _ _ w hb.ll hw

theorem dist0 : Statement .dist0 :=
  fun c w hb hw => encodeDist_length c _ w hb hw

theorem dist1 : Statement .dist1 :=
  fun c w hb hw => encodeDist_length c _ w hb hw

theorem dist2 : Statement .dist2 :=
  fun c w hb hw => encodeDist_length c _ w hb hw

theorem dist3 : Statement .dist3 :=
  fun c w hb hw => encodeDist_length c _ w hb hw

theorem dist4 (x : BitVec 1) : Statement (.dist4 x) :=
  fun c w hb hw => encodeDist_length c _ w hb hw

theorem dist5 (x : BitVec 1) : Statement (.dist5 x) :=
  fun c w hb hw => encodeDist_length c _ w hb hw

theorem dist6 (x : BitVec 2) : Statement (.dist6 x) :=
  fun c w hb hw => encodeDist_length c _ w hb hw

theorem dist7 (x : BitVec 2) : Statement (.dist7 x) :=
  fun c w hb hw => encodeDist_length c _ w hb hw

theorem dist8 (x : BitVec 3) : Statement (.dist8 x) :=
  fun c w hb hw => encodeDist_length c _ w hb hw

theorem dist9 (x : BitVec 3) : Statement (.dist9 x) :=
  fun c w hb hw => encodeDist_length c _ w hb hw

theorem dist10 (x : BitVec 4) : Statement (.dist10 x) :=
  fun c w hb hw => encodeDist_length c _ w hb hw

theorem dist11 (x : BitVec 4) : Statement (.dist11 x) :=
  fun c w hb hw => encodeDist_length c _ w hb hw

theorem dist12 (x : BitVec 5) : Statement (.dist12 x) :=
  fun c w hb hw => encodeDist_length c _ w hb hw

theorem dist13 (x : BitVec 5) : Statement (.dist13 x) :=
  fun c w hb hw => encodeDist_length c _ w hb hw

theorem dist14 (x : BitVec 6) : Statement (.dist14 x) :=
  fun c w hb hw => encodeDist_length c _ w hb hw

theorem dist15 (x : BitVec 6) : Statement (.dist15 x) :=
  fun c w hb hw => encodeDist_length c _ w hb hw

theorem dist16 (x : BitVec 7) : Statement (.dist16 x) :=
  fun c w hb hw => encodeDist_length c _ w hb hw

theorem dist17 (x : BitVec 7) : Statement (.dist17 x) :=
  fun c w hb hw => encodeDist_length c _ w hb hw

theorem dist18 (x : BitVec 8) : Statement (.dist18 x) :=
  fun c w hb hw => encodeDist_length c _ w hb hw

theorem dist19 (x : BitVec 8) : Statement (.dist19 x) :=
  fun c w hb hw => encodeDist_length c _ w hb hw

theorem dist20 (x : BitVec 9) : Statement (.dist20 x) :=
  fun c w hb hw => encodeDist_length c _ w hb hw

theorem dist21 (x : BitVec 9) : Statement (.dist21 x) :=
  fun c w hb hw => encodeDist_length c _ w hb hw

theorem dist22 (x : BitVec 10) : Statement (.dist22 x) :=
  fun c w hb hw => encodeDist_length c _ w hb hw

theorem dist23 (x : BitVec 10) : Statement (.dist23 x) :=
  fun c w hb hw => encodeDist_length c _ w hb hw

theorem dist24 (x : BitVec 11) : Statement (.dist24 x) :=
  fun c w hb hw => encodeDist_length c _ w hb hw

theorem dist25 (x : BitVec 11) : Statement (.dist25 x) :=
  fun c w hb hw => encodeDist_length c _ w hb hw

theorem dist26 (x : BitVec 12) : Statement (.dist26 x) :=
  fun c w hb hw => encodeDist_length c _ w hb hw

theorem dist27 (x : BitVec 12) : Statement (.dist27 x) :=
  fun c w hb hw => encodeDist_length c _ w hb hw

theorem dist28 (x : BitVec 13) : Statement (.dist28 x) :=
  fun c w hb hw => encodeDist_length c _ w hb hw

theorem dist29 (x : BitVec 13) : Statement (.dist29 x) :=
  fun c w hb hw => encodeDist_length c _ w hb hw

theorem distInvalid (n : BitVec 1) : Statement (.distInvalid n) :=
  fun _ w hb hw => codewordOf_length _ _ _ w hb.d hw

theorem dist30D64 (x : BitVec 14) : Statement (.dist30D64 x) :=
  fun c w hb hw => encodeDist_length c _ w hb hw

theorem dist31D64 (x : BitVec 14) : Statement (.dist31D64 x) :=
  fun c w hb hw => encodeDist_length c _ w hb hw

theorem fixedLl0To143 (b : Byte) : Statement (.fixedLl0To143 b) := by
  intro c w _ hw
  obtain rfl := Option.some.inj hw
  simp [maxBits]

theorem fixedLl144To255 (b : Byte) : Statement (.fixedLl144To255 b) := by
  intro c w _ hw
  obtain rfl := Option.some.inj hw
  simp [maxBits]

theorem fixedLl256To279 (n : BitVec 5) (x : BitVec 4) (d : DistField) : Statement (.fixedLl256To279 n x d) := by
  intro c w _ hw
  obtain rfl := Option.some.inj hw
  have h1 := encodeFixedDist_length c.mode d
  have h2 := lextra_le c.mode (256 + n.toNat)
  simp only [maxBits, List.length_append, length_codeBits]
  split <;> simp only [List.length_append, List.length_nil, length_fieldBits] <;> omega

theorem fixedLl280To287 (n : BitVec 3) (x : BitVec 16) (d : DistField) : Statement (.fixedLl280To287 n x d) := by
  intro c w _ hw
  obtain rfl := Option.some.inj hw
  have h1 := encodeFixedDist_length c.mode d
  have h2 := lextra_le c.mode (280 + n.toNat)
  simp only [maxBits, List.length_append, length_codeBits]
  split <;> simp only [List.length_append, List.length_nil, length_fieldBits] <;> omega

theorem fixedD0To31 (d : DistField) : Statement (.fixedD0To31 d) := by
  intro c w _ hw
  obtain rfl := Option.some.inj hw
  have := encodeFixedDist_length c.mode d
  simp only [maxBits]
  omega

theorem construct (cfg : RawCfg) (source : List Byte) : Statement (.construct cfg source) :=
  fun _ _ _ hw => nomatch hw

theorem read : Statement .read :=
  fun _ _ _ hw => nomatch hw

theorem readbuf (n : Nat) : Statement (.readbuf n) :=
  fun _ _ _ hw => nomatch hw

theorem close : Statement .close :=
  fun _ _ _ hw => nomatch hw

end Laws.RowEncoding

end Sys2Proof
end

