-- ==== Sys2Proof/Tests/Slice0.lean ====
section
/-! SUPPORT. The model's own tests.  Expected results come from the spec's vectors (95_test_vectors.md) or are
worked out by hand from its tables; each test names its source. -/

namespace Sys2Proof.Tests

set_option Elab.async false

open Sys2Proof Sys2Proof.Machine

/-! ### Helpers -/

/-- The `n` binary digits of `v`, the leftmost first: a codeword as the spec writes it. -/
def word (n v : Nat) : Bits :=
  (List.range n).map fun i => v.testBit (n - 1 - i)

/-- The `n` bits of a field that holds `v`, bit 0 first, as `GetBits` takes it. -/
def field (n v : Nat) : Bits :=
  (List.range n).map fun i => v.testBit i

/-- A parser that has the bits `w` at hand and an exhausted source behind them. -/
def at_ (w : Bits) : Parser :=
  { input := [], ipos := 0, bitbuf := w, srcEos := false }

/-- The read answered `i` and used every bit. -/
def reads (r : Fetched Instr) (i : Instr) : Bool :=
  match r with
  | .ok j q => j == i && q.bitbuf == []
  | .raised _ _ => false
  | .rejected _ => false

/-- The outcome is a next state of which `f` holds. -/
def nextIs (r : Result) (f : State → Bool) : Bool :=
  match r with
  | .next t => f t
  | .fault _ => false
  | .refused _ => false

/-- The fault that a next state has recorded, with the output it leaves. -/
def failsWith (r : Result) (code : BitVec 4) (out : List Byte) : Bool :=
  nextIs r fun t => t.phase == .failed && t.errReg == code && t.errPending && t.buf.out == out

/-- The reset state with a phase, registers and an output. -/
def stateAt (phase : Phase) (reg : Regs) (out : List Byte) : State :=
  { State.reset with phase := phase, reg := reg, buf := { State.reset.buf with out := out } }

/-- A state in the data of a Fixed block with an output. -/
def dataState (out : List Byte) : State :=
  stateAt .fixed { Regs.fresh with sub := .fData } out

/-- A state among the code lengths of a dynamic header with `NLIT + NDIST = 258`. -/
def lensState (lidx : Nat) (prev : BitVec 4) (valid : Bool) : State :=
  stateAt .dynamic { Regs.fresh with sub := .dLens, lidx := lidx, prev := prev, prevValid := valid } []

/-! ### Well-formedness: one ill-formed term for each check, which the check refuses -/

theorem test_wf_refuses_wide_extra :
    Instr.wf .deflate (.matchL257 { sym := 4, extra := 2 }) = false ∧
      Instr.wf .deflate (.matchL257 { sym := 4, extra := 1 }) = true := by decide

theorem test_wf_refuses_extra_of_meaningless_symbol :
    Instr.wf .deflate (.matchL284 31 { sym := 30, extra := 1 }) = false ∧
      Instr.wf .deflate64 (.matchL284 31 { sym := 30, extra := 16383 }) = true := by decide

theorem test_wf_refuses_row_of_the_other_mode :
    Instr.wf .deflate64 (.matchL285 { sym := 0, extra := 0 }) = false ∧
      Instr.wf .deflate (.matchL285D64 0 { sym := 0, extra := 0 }) = false ∧
      Instr.wf .deflate64 (.distInvalid 0) = false ∧
      Instr.wf .deflate (.dist30D64 0) = false ∧ Instr.wf .deflate (.dist31D64 0) = false := by decide

theorem test_wf_refuses_literal_of_the_other_length :
    Instr.wf .deflate (.fixedLl0To143 144) = false ∧
      Instr.wf .deflate (.fixedLl144To255 143) = false ∧
      Instr.wf .deflate (.fixedLl0To143 143) = true ∧
      Instr.wf .deflate (.fixedLl144To255 144) = true := by decide

theorem test_wf_refuses_fixed_256_279 :
    Instr.wf .deflate (.fixedLl256To279 24 0 { sym := 0, extra := 0 }) = false ∧
      Instr.wf .deflate (.fixedLl256To279 1 1 { sym := 0, extra := 0 }) = false ∧
      Instr.wf .deflate (.fixedLl256To279 0 0 { sym := 1, extra := 0 }) = false ∧
      Instr.wf .deflate (.fixedLl256To279 23 15 { sym := 29, extra := 8191 }) = true := by decide

theorem test_wf_refuses_fixed_280_287 :
    Instr.wf .deflate (.fixedLl280To287 0 16 { sym := 0, extra := 0 }) = false ∧
      Instr.wf .deflate (.fixedLl280To287 6 0 { sym := 1, extra := 0 }) = false ∧
      Instr.wf .deflate (.fixedLl280To287 5 1 { sym := 0, extra := 0 }) = false ∧
      Instr.wf .deflate64 (.fixedLl280To287 5 65535 { sym := 0, extra := 0 }) = true := by decide

theorem test_wf_refuses_fixed_distance :
    Instr.wf .deflate (.fixedD0To31 { sym := 0, extra := 1 }) = false ∧
      Instr.wf .deflate (.fixedD0To31 { sym := 29, extra := 8191 }) = true := by decide

/-! ### Decoding and encoding: words written out from the spec's encodings -/

/-- The pair of a word and its element: the reader answers the element, and the encoder gives the word. -/
def agrees (read : Parser → Fetched Instr) (c : EncCtx) (pair : Bits × Instr) : Bool :=
  reads (read (at_ pair.1)) pair.2 && encode c pair.2 == some pair.1

/-- R91, R92: the final flag, then the type with its low bit first. -/
theorem test_words_header :
    ([([true, false, false], .blkStored true), ([true, true, false], .blkFixed true),
      ([false, false, true], .blkDynamic false), ([true, true, true], .blkReserved true)]
      : List (Bits × Instr)).all (agrees readHeader (fixedEnc .deflate)) = true := by decide

/-- R91: the general row has the word of its type. -/
theorem test_word_bhdr : encode (fixedEnc .deflate) (.bhdr true 1) = some [true, true, false] := by decide

/-- R93: five pad bits, then `LEN = 0x0005`, `NLEN = 0xFFFA`, each low byte first. -/
theorem test_word_stored_header :
    agrees readStoredHdr (fixedEnc .deflate)
      (List.replicate 5 false ++ field 8 0x05 ++ field 8 0x00 ++ field 8 0xFA ++ field 8 0xFF,
        .storedHdr 0x0005 0xFFFA) = true := by decide

/-- R258: a byte, its low bit first. -/
theorem test_word_stored_byte :
    agrees readStoredByte (fixedEnc .deflate)
      ([true, false, false, true, false, false, false, false], .storedByte 0x09) = true := by decide

/-- R94, program P3: `10000`, `00000`, `0111` are `HLIT = 1`, `HDIST = 0`, `HCLEN = 14`. -/
theorem test_word_counts :
    agrees readCounts (fixedEnc .deflate)
      (word 5 0b10000 ++ word 5 0b00000 ++ word 4 0b0111, .dynCounts 1 0 14) = true := by decide

/-- R95: a 3-bit length, its low bit first. -/
theorem test_word_cllen :
    agrees readCllen (fixedEnc .deflate) ([false, true, true], .dynCllen 6) = true := by decide

/-- A reset state's context with a phase and a sub-phase. -/
def ctxOf (phase : Phase) (sub : Sub) : Ctx :=
  { mode := .deflate, phase := phase, sub := sub, storedLeft := false, clidx := 4, ncl := 4
    rep16Stops := false, cltab := none, lltab := none, dtab := none }

/-- R275, R284: the two build steps read no bits. -/
theorem test_words_builds :
    reads (decodeElem (ctxOf .dynamic .dCllens) (at_ [])) .dynClbuild = true ∧
      reads (decodeElem (ctxOf .dynamic .dBuild) (at_ [])) .dynBuild = true ∧
      encode (fixedEnc .deflate) .dynClbuild = some [] ∧
      encode (fixedEnc .deflate) .dynBuild = some [] := by decide

/-- Thirteen lengths 4 and six lengths 5. -/
def clLens : List Nat :=
  List.replicate 13 4 ++ List.replicate 6 5

/-- A code-length code with thirteen lengths 4 and six lengths 5: symbol `v` below 13 has the codeword `v`
in 4 digits, and symbol 13 to 18 the codeword `v + 13` in 5 digits. -/
def clCtx : Ctx :=
  { ctxOf .dynamic .dLens with cltab := buildTable defaultCfg defaultParams .cl clLens 7 }

/-- R96, R277 to R280: the code-length symbols with that code, extra fields low bit first. -/
theorem test_words_code_lengths :
    ([(word 4 0, .clLen0), (word 4 1, .clLen1), (word 4 2, .clLen2),
      (word 4 3, .clLen3), (word 4 4, .clLen4), (word 4 5, .clLen5),
      (word 4 6, .clLen6), (word 4 7, .clLen7), (word 4 8, .clLen8),
      (word 4 9, .clLen9), (word 4 10, .clLen10), (word 4 11, .clLen11),
      (word 4 12, .clLen12), (word 5 26, .clLen13), (word 5 27, .clLen14),
      (word 5 28, .clLen15), (word 5 29 ++ [true, false], .clRep16 1), (word 5 30 ++ [false, false, true], .clZrep17 4),
      (word 5 31 ++ field 7 86, .clZrep18 86)]
      : List (Bits × Instr)).all (agrees (decodeElem clCtx) { fixedEnc .deflate with cl := clLens }) = true := by decide +kernel

/-- A literal/length code that gives symbols 256 to 287 length 5: symbol `256 + k` has the codeword `k` in
5 digits. -/
def upperLens : List Nat :=
  List.replicate 256 0 ++ List.replicate 32 5

/-- The encoding context of that code with the fixed distance code, whose codeword of `c` is `c` in 5
digits. -/
def upperEnc (mode : Mode) : EncCtx :=
  { fixedEnc mode with ll := upperLens }

/-- The context that decodes with these two codes. -/
def upperCtx (mode : Mode) : Ctx :=
  { ctxOf .dynamic .dData with
    mode := mode
    lltab := buildTable defaultCfg defaultParams .ll upperLens 15
    dtab := buildTable defaultCfg defaultParams .d fixedDistanceAlphabet 15 }

/-- No distance extra bits: distance symbol 0. -/
def d0 : DistField := { sym := 0, extra := 0 }

/-- R98: length symbols 257 to 270 with their extra fields. -/
theorem test_words_lengths_257_to_270 :
    ([(word 5 1 ++ word 5 0, .matchL257 d0), (word 5 2 ++ word 5 0, .matchL258 d0),
      (word 5 3 ++ word 5 0, .matchL259 d0), (word 5 4 ++ word 5 0, .matchL260 d0),
      (word 5 5 ++ word 5 0, .matchL261 d0), (word 5 6 ++ word 5 0, .matchL262 d0),
      (word 5 7 ++ word 5 0, .matchL263 d0), (word 5 8 ++ word 5 0, .matchL264 d0),
      (word 5 9 ++ field 1 1 ++ word 5 0, .matchL265 1 d0), (word 5 10 ++ field 1 1 ++ word 5 0, .matchL266 1 d0),
      (word 5 11 ++ field 1 1 ++ word 5 0, .matchL267 1 d0), (word 5 12 ++ field 1 1 ++ word 5 0, .matchL268 1 d0),
      (word 5 13 ++ field 2 2 ++ word 5 0, .matchL269 2 d0), (word 5 14 ++ field 2 2 ++ word 5 0, .matchL270 2 d0)]
      : List (Bits × Instr)).all (agrees (decodeElem (upperCtx .deflate)) (upperEnc .deflate)) = true := by
  decide +kernel

/-- R98: length symbols 271 to 284 with their extra fields. -/
theorem test_words_lengths_271_to_284 :
    ([(word 5 15 ++ field 2 2 ++ word 5 0, .matchL271 2 d0), (word 5 16 ++ field 2 2 ++ word 5 0, .matchL272 2 d0),
      (word 5 17 ++ field 3 6 ++ word 5 0, .matchL273 6 d0), (word 5 18 ++ field 3 6 ++ word 5 0, .matchL274 6 d0),
      (word 5 19 ++ field 3 6 ++ word 5 0, .matchL275 6 d0), (word 5 20 ++ field 3 6 ++ word 5 0, .matchL276 6 d0),
      (word 5 21 ++ field 4 14 ++ word 5 0, .matchL277 14 d0), (word 5 22 ++ field 4 14 ++ word 5 0, .matchL278 14 d0),
      (word 5 23 ++ field 4 14 ++ word 5 0, .matchL279 14 d0), (word 5 24 ++ field 4 14 ++ word 5 0, .matchL280 14 d0),
      (word 5 25 ++ field 5 30 ++ word 5 0, .matchL281 30 d0), (word 5 26 ++ field 5 30 ++ word 5 0, .matchL282 30 d0),
      (word 5 27 ++ field 5 30 ++ word 5 0, .matchL283 30 d0), (word 5 28 ++ field 5 30 ++ word 5 0, .matchL284 30 d0)]
      : List (Bits × Instr)).all (agrees (decodeElem (upperCtx .deflate)) (upperEnc .deflate)) = true := by
  decide +kernel

/-- R97, R98, R103: the end of block, symbol 285 of `DEFLATE` mode, and the symbols without a meaning. -/
theorem test_words_end_and_invalid :
    ([(word 5 0, .eob), (word 5 29 ++ word 5 0, .matchL285 d0), (word 5 30, .llInvalid 0),
      (word 5 31, .llInvalid 1)]
      : List (Bits × Instr)).all (agrees (decodeElem (upperCtx .deflate)) (upperEnc .deflate)) = true := by
  decide +kernel

/-- R100: symbol 285 of `DEFLATE64` mode has 16 extra bits, and distance symbols 30 and 31 have 14. -/
theorem test_words_deflate64 :
    ([(word 5 29 ++ field 16 0x03E5 ++ word 5 0, .matchL285D64 0x03E5 d0),
      (word 5 1 ++ word 5 30 ++ field 14 1, .matchL257 { sym := 30, extra := 1 }),
      (word 5 1 ++ word 5 31 ++ field 14 0x2001, .matchL257 { sym := 31, extra := 0x2001 })]
      : List (Bits × Instr)).all (agrees (decodeElem (upperCtx .deflate64)) (upperEnc .deflate64)) = true := by
  decide +kernel

/-- R302: a literal of a code in which bytes 0 and 1 have length 1. -/
theorem test_words_literal :
    ([(([false] : Bits), Instr.lit 0), ([true], .lit 1)]).all
      (agrees (decodeElem { ctxOf .dynamic .dData with
        lltab := buildTable defaultCfg defaultParams .ll [1, 1] 15 })
        { fixedEnc .deflate with ll := [1, 1] }) = true := by decide +kernel

/-- R99, R101: the distance symbols with the fixed code and their extra fields. -/
theorem test_words_distance :
    ([(word 5 0, .dist0), (word 5 1, .dist1), (word 5 2, .dist2),
      (word 5 3, .dist3), (word 5 4 ++ field 1 1, .dist4 1), (word 5 5 ++ field 1 1, .dist5 1),
      (word 5 6 ++ field 2 2, .dist6 2), (word 5 7 ++ field 2 2, .dist7 2), (word 5 8 ++ field 3 6, .dist8 6),
      (word 5 9 ++ field 3 6, .dist9 6), (word 5 10 ++ field 4 14, .dist10 14), (word 5 11 ++ field 4 14, .dist11 14),
      (word 5 12 ++ field 5 30, .dist12 30), (word 5 13 ++ field 5 30, .dist13 30), (word 5 14 ++ field 6 62, .dist14 62),
      (word 5 15 ++ field 6 62, .dist15 62), (word 5 16 ++ field 7 126, .dist16 126), (word 5 17 ++ field 7 126, .dist17 126),
      (word 5 18 ++ field 8 254, .dist18 254), (word 5 19 ++ field 8 254, .dist19 254), (word 5 20 ++ field 9 510, .dist20 510),
      (word 5 21 ++ field 9 510, .dist21 510), (word 5 22 ++ field 10 1022, .dist22 1022), (word 5 23 ++ field 10 1022, .dist23 1022),
      (word 5 24 ++ field 11 2046, .dist24 2046), (word 5 25 ++ field 11 2046, .dist25 2046), (word 5 26 ++ field 12 4094, .dist26 4094),
      (word 5 27 ++ field 12 4094, .dist27 4094), (word 5 28 ++ field 13 8190, .dist28 8190), (word 5 29 ++ field 13 8190, .dist29 8190)]
      : List (Bits × Instr)).all
        (agrees (readDistRow .deflate (buildTable defaultCfg defaultParams .d fixedDistanceAlphabet 15))
          (fixedEnc .deflate)) = true := by decide +kernel

/-- R99, R100, R103: distance symbols 30 and 31 in either mode. -/
theorem test_words_distance_30_31 :
    ([(word 5 30, .distInvalid 0), (word 5 31, .distInvalid 1)]
      : List (Bits × Instr)).all
        (agrees (readDistRow .deflate (buildTable defaultCfg defaultParams .d fixedDistanceAlphabet 15))
          (fixedEnc .deflate)) = true ∧
    ([(word 5 30 ++ field 14 5, .dist30D64 5), (word 5 31 ++ field 14 16383, .dist31D64 16383)]
      : List (Bits × Instr)).all
        (agrees (readDistRow .deflate64 (buildTable defaultCfg defaultParams .d fixedDistanceAlphabet 15))
          (fixedEnc .deflate64)) = true := by decide +kernel

/-- R101: the fixed codewords at the edges of each range, with what follows them in a match. -/
theorem test_words_fixed :
    ([(word 8 0b00110000, .fixedLl0To143 0), (word 8 0b10111111, .fixedLl0To143 143),
      (word 9 0b110010000, .fixedLl144To255 144), (word 9 0b111111111, .fixedLl144To255 255),
      (word 7 0b0000000, .fixedLl256To279 0 0 d0),
      (word 7 0b0000001 ++ word 5 0b00011, .fixedLl256To279 1 0 { sym := 3, extra := 0 }),
      (word 7 0b0010111 ++ field 4 9 ++ word 5 0b00100 ++ [true],
        .fixedLl256To279 23 9 { sym := 4, extra := 1 }),
      (word 8 0b11000000 ++ field 4 15 ++ word 5 0, .fixedLl280To287 0 15 d0),
      (word 8 0b11000101 ++ word 5 0, .fixedLl280To287 5 0 d0),
      (word 8 0b11000110, .fixedLl280To287 6 0 d0), (word 8 0b11000111, .fixedLl280To287 7 0 d0)]
      : List (Bits × Instr)).all (agrees (readFixedRow .deflate) (fixedEnc .deflate)) = true := by
  decide +kernel

/-- R101: the fixed distance codewords as distance parts. -/
theorem test_words_fixed_distance :
    encode (fixedEnc .deflate) (.fixedD0To31 { sym := 29, extra := 8191 }) =
        some (word 5 0b11101 ++ List.replicate 13 true) ∧
      (match readFixedDist .deflate (at_ (word 5 0b11101 ++ List.replicate 13 true)) with
        | .ok d q => d == { sym := 29, extra := 8191 } && q.bitbuf == []
        | .raised _ _ => false
        | .rejected _ => false) = true := by decide +kernel

/-- R120: a host call has no stream encoding. -/
theorem test_words_host_calls :
    encode (fixedEnc .deflate) .read = none ∧ encode (fixedEnc .deflate) (.readbuf 1) = none ∧
      encode (fixedEnc .deflate) .close = none := by decide

/-! ### The words of the operation table (log entry 10) -/

theorem test_table_words_header :
    decodeTableWord 8 0 = some (.blkStored false) ∧ decodeTableWord 8 3 = some (.blkFixed true) ∧
      decodeTableWord 8 4 = some (.blkDynamic false) ∧ decodeTableWord 8 6 = some (.blkReserved false) := by
  decide +kernel

theorem test_table_word_code_length :
    decodeTableWord 8 9 = some .clLen9 ∧ decodeTableWord 8 17 = some (.clZrep17 0) := by decide +kernel

theorem test_table_word_literal_length :
    decodeTableWord 16 256 = some .eob := by decide +kernel

/-! ### The code builder and the health check (95_test_vectors.md, S1 to S4 and H1 to H12) -/

/-- S1, S2, S3: the codewords, symbol 0 first. -/
theorem test_canonical_construct :
    codewordStrings [2, 1, 3, 3] =
        [some (word 2 0b10), some (word 1 0), some (word 3 0b110), some (word 3 0b111)] ∧
      codewordStrings [3, 3, 2, 1] =
        [some (word 3 0b110), some (word 3 0b111), some (word 2 0b10), some (word 1 0)] ∧
      codewordStrings [3, 3, 3, 3, 3, 2, 4, 4] =
        [some (word 3 0b010), some (word 3 0b011), some (word 3 0b100), some (word 3 0b101),
         some (word 3 0b110), some (word 2 0b00), some (word 4 0b1110), some (word 4 0b1111)] := by
  decide +kernel

/-- S1, S3: the first codeword of each length. -/
theorem test_first_codes :
    firstCodes [2, 1, 3, 3] 3 = [0, 0, 2, 6] ∧
      firstCodes [3, 3, 3, 3, 3, 2, 4, 4] 4 = [0, 0, 0, 2, 14] := by decide +kernel

/-- S1, S4, H12: Kraft sums. -/
theorem test_kraft_sums :
    kraftSum [2, 1, 3, 3] 15 = 32768 ∧ kraftSum fixedLiteralLengthAlphabet 15 = 32768 ∧
      kraftSum fixedDistanceAlphabet 15 = 32768 ∧ kraftSum (List.replicate 30 5) 15 = 30720 ∧
      kraftSum [0, 2, 2, 0, 0, 0, 0, 0, 0, 0, 0, 0, 0, 0, 0, 0, 0, 0, 1] 7 = 128 := by decide +kernel

/-- S4: both fixed alphabets pass the health check. -/
theorem test_fixed_alphabets_healthy :
    checkHealth .acceptFaultOnUse .ll fixedLiteralLengthAlphabet 15 = some .complete ∧
      checkHealth .acceptFaultOnUse .d fixedDistanceAlphabet 15 = some .complete := by decide +kernel

/-- H1 to H12 of literal/length arrays: the kind, or none where `IncompleteCodeError` is raised. -/
theorem test_check_health :
    [([1, 0, 0], some Kind.degenerate), ([2, 0, 0], none), ([1, 1, 1], none), ([1, 1], some .complete),
      ([0, 0, 0], none), ([1, 2, 0], none), ([1, 2, 2, 0], some .complete),
      ([2, 2, 2, 2, 0], some .complete), ([15, 0, 0, 0], none),
      ([1, 2, 3, 4, 5, 6, 7, 8, 9, 10, 11, 12, 13, 14, 15, 15], some .complete)].all
      (fun x => checkHealth .acceptFaultOnUse .ll x.1 15 == x.2) = true := by decide +kernel

/-- H5, H6: an array without a code, by alphabet and `EMPTY_DIST_CODE`. -/
theorem test_check_health_empty :
    checkHealth .acceptFaultOnUse .d [0, 0, 0] 15 = some .empty ∧
      checkHealth .faultAtBuild .d [0, 0, 0] 15 = none ∧
      checkHealth .acceptFaultOnUse .cl [0, 0, 0] 7 = none := by decide

/-- H12: the code-length code of that vector. -/
theorem test_codewords_h12 :
    let lens := [0, 2, 2, 0, 0, 0, 0, 0, 0, 0, 0, 0, 0, 0, 0, 0, 0, 0, 1]
    codewordOf lens 18 = some [false] ∧ codewordOf lens 1 = some [true, false] ∧
      codewordOf lens 2 = some [true, true] ∧ codewordOf lens 0 = none := by decide +kernel

/-! ### The decode strategies (95_test_vectors.md, 2.2) -/

/-- The six representations: five strategies, and both backings of the map. -/
def everyStrategy : List Cfg :=
  [{ defaultCfg with decoder := .trieStateSymbol }, { defaultCfg with decoder := .trieSymbolState },
   { defaultCfg with decoder := .trieStateSymbol, mapback := .slotArray },
   { defaultCfg with decoder := .genericMap }, { defaultCfg with decoder := .tree },
   { defaultCfg with decoder := .table }]

/-- Every strategy built from `lens` decodes `stream` to `sym`, having consumed `n` bits. -/
def allDecode (lens : List Nat) (stream : List Byte) (sym n : Nat) : Bool :=
  everyStrategy.all fun cfg =>
    match buildTable cfg defaultParams .d lens 15 with
    | none => false
    | some t =>
      match decodeSym t (Parser.start stream) with
      | .ok v q => v == sym && q.bp == n
      | .raised _ _ => false
      | .rejected _ => false

/-- Every strategy built from `lens` raises `e` on the stream whose bits are at hand. -/
def allRaise (lens : List Nat) (p : Parser) (e : ErrKind) : Bool :=
  everyStrategy.all fun cfg =>
    match buildTable cfg defaultParams .d lens 15 with
    | none => false
    | some t =>
      match decodeSym t p with
      | .ok _ _ => false
      | .raised f _ => f == e
      | .rejected _ => false

/-- Code S1: the streams `0`, `10`, `110`, `111`, first bit in bit 0 of the byte. -/
theorem test_strategies_agree_s1 :
    allDecode [2, 1, 3, 3] [0b0] 1 1 = true ∧ allDecode [2, 1, 3, 3] [0b01] 0 2 = true ∧
      allDecode [2, 1, 3, 3] [0b011] 2 3 = true ∧ allDecode [2, 1, 3, 3] [0b111] 3 3 = true ∧
      allRaise [2, 1, 3, 3] (at_ [true]) .unexpectedEndOfStream = true := by decide +kernel

/-- The degenerate table H1 and the empty table H6. -/
theorem test_strategies_degenerate_and_empty :
    allDecode [1, 0, 0] [0b0] 0 1 = true ∧ allRaise [1, 0, 0] (at_ [true]) .incompleteCode = true ∧
      allRaise [0, 0, 0] (at_ [true]) .incompleteCode = true := by decide +kernel

/-- The two tries of S1, and the state-symbol trie of S2. -/
theorem test_trie_contents :
    let m := trieBuild keyStateSymbol .hash (codeTriples [2, 1, 3, 3])
    let m2 := trieBuild keySymbolState .slotArray (codeTriples [2, 1, 3, 3])
    let m3 := trieBuild keyStateSymbol .slotArray (codeTriples [3, 3, 2, 1])
    [0, 1, 2, 3, 4, 5, 6].map (mapGet m) =
        [some (-2), some 1, some (-1), some 2, some (-3), some (-4), none] ∧
      [0, 512, 1, 513, 2, 514].map (mapGet m2) =
        [some (-2), some 1, some (-1), some 2, some (-3), some (-4)] ∧
      [1, 3, 4, 5, 2, 0].map (mapGet m3) =
        [some 1, some 2, some (-1), some (-2), some (-3), some (-4)] := by decide +kernel

/-- The lookup tables of S1, S2 and H1. -/
theorem test_table_contents :
    tableBuild 3 (codeTriples [2, 1, 3, 3]) =
        [(some 1, 1), (some 0, 2), (some 1, 1), (some 2, 3), (some 1, 1), (some 0, 2), (some 1, 1),
         (some 3, 3)] ∧
      tableBuild 3 (codeTriples [3, 3, 2, 1]) =
        [(some 3, 1), (some 2, 2), (some 3, 1), (some 0, 3), (some 3, 1), (some 2, 2), (some 3, 1),
         (some 1, 3)] ∧
      tableBuild 1 (codeTriples [1, 0, 0]) = [(some 0, 1), (none, 0)] := by decide +kernel

/-- R164 on S1: with the bit `0` at hand no byte is fetched; with the bit `1` one is. -/
theorem test_table_is_lazy :
    let e := tableBuild 3 (codeTriples [2, 1, 3, 3])
    tableDecode 3 e { input := [0xFF], ipos := 0, bitbuf := [false], srcEos := false } =
        .ok 1 { input := [0xFF], ipos := 0, bitbuf := [], srcEos := false } ∧
      tableDecode 3 e { input := [0x00], ipos := 0, bitbuf := [true], srcEos := false } =
        .ok 0 { input := [0x00], ipos := 1, bitbuf := List.replicate 7 false, srcEos := false } := by
  decide +kernel

/-! ### The parser (95_test_vectors.md, 2.3) -/

/-- The input of that table. -/
def parserInput : List Byte := [0x4B, 0x4C, 0x04, 0x00]

/-- `GetBits(n)` at a bit position answers `v`, with `BP`, `IPOS` and `BITCNT` as given. -/
def gets (p : Parser) (n v bp ipos bitcnt : Nat) : Bool :=
  match p.getBits n with
  | .ok w q => w == v && q.bp == bp && q.ipos == ipos && q.bitcnt == bitcnt
  | .raised _ _ => false
  | .rejected _ => false

/-- The parser of that table after `ipos` bytes were taken and `n` bits of the last one kept. -/
def midway (ipos n : Nat) : Parser :=
  { input := parserInput, ipos := ipos
    bitbuf := (byteBits (parserInput.getD (ipos - 1) 0)).drop (8 - n), srcEos := false }

/-- Each call of the table. -/
theorem test_get_bits :
    gets (Parser.start parserInput) 1 1 1 1 7 = true ∧ gets (midway 1 7) 2 1 3 1 5 = true ∧
      gets (midway 1 5) 5 9 8 1 0 = true ∧ gets (midway 1 0) 0 0 8 1 0 = true ∧
      gets (midway 1 0) 16 0x044C 24 3 0 = true ∧
      (match (midway 3 0).getBits 9 with
        | .ok _ _ => false
        | .raised e _ => e == .unexpectedEndOfStream
        | .rejected _ => false) = true := by decide +kernel

/-- `AlignByte` at `BP = 3` and at `BP = 8`. -/
theorem test_align_byte :
    (midway 1 5).alignByte = midway 1 0 ∧ (midway 1 5).alignByte.bp = 8 ∧
      (midway 1 0).alignByte = midway 1 0 := by decide +kernel

/-- R62, R107: the bits `1 10` and zeros pack to the byte 0x03. -/
theorem test_pack_bytes : packBytes [true, true, false, false, false, false, false, false] = [0x03] := by
  decide

/-! ### Block headers and stored blocks (95_test_vectors.md, 2.4) -/

/-- B4 and B5: a stored header enters its block; P1 step 1. -/
theorem test_header_stored :
    nextIs (exec (.blkStored true) State.reset) (fun t =>
      t.phase == .stored && t.reg.sub == .sHdr && t.reg.bfinal && t.reg.btype == 0) = true := by decide

/-- B2, B3: type 3 raises `InvalidBlockTypeError`. -/
theorem test_header_reserved :
    failsWith (exec (.blkReserved true) State.reset) 2 [] = true ∧
      failsWith (exec (.bhdr false 3) State.reset) 2 [] = true := by decide

/-- B1, R243: a Fixed header sets the phase and the flag and fills the arrays. -/
theorem test_header_fixed :
    nextIs (exec (.blkFixed true) State.reset) (fun t =>
      t.phase == .fixed && t.reg.sub == .fData && t.fixedBuilt && t.reg.btype == 1 &&
        t.reg.ll[256]? == some 7 && t.reg.dl[31]? == some 5) = true := by decide +kernel

/-- R244: a Dynamic header discards the tables of the block before it. -/
theorem test_header_dynamic :
    nextIs (exec (.bhdr false 2)
      (stateAt .header { Regs.fresh with cltab := wordTable .cl [1, 1] 7 } [])) (fun t =>
      t.phase == .dynamic && t.reg.sub == .dCounts && t.reg.cltab == none) = true := by decide +kernel

/-- B8: the first read of an empty source raises `UnexpectedEndOfStreamError`. -/
theorem test_header_of_empty_source : failsWith (streamStep State.reset) 5 [] = true := by decide

/-- B4: an empty final stored block ends at once. -/
theorem test_stored_empty :
    nextIs (exec (.storedHdr 0 0xFFFF) (stateAt .stored { Regs.fresh with bfinal := true } [])) (fun t =>
      t.phase == .done && t.reg.srem == 0) = true := by decide

/-- B6: `NLEN` is not the complement of `LEN`. -/
theorem test_stored_mismatch :
    failsWith (exec (.storedHdr 0x0005 0xFEFA) (stateAt .stored Regs.fresh [])) 3 [] = true := by decide

/-- B11: five pad bits that are all 1 are skipped. -/
theorem test_stored_pad_ignored :
    (match readStoredHdr { input := [0xF9, 0x01, 0x00, 0xFE, 0xFF], ipos := 1
                           bitbuf := (byteBits 0xF9).drop 3, srcEos := false } with
      | .ok i q => i == .storedHdr 0x0001 0xFFFE && q.bp == 40
      | .raised _ _ => false
      | .rejected _ => false) = true := by decide +kernel

/-- B12: the last byte of a block that is not final leads to the next header. -/
theorem test_stored_byte_ends_block :
    nextIs (exec (.storedByte 0x41) (stateAt .stored { Regs.fresh with sub := .sData, srem := 1 } []))
      (fun t => t.phase == .header && t.buf.out == [0x41]) = true := by decide

/-- B7: the input ends inside the data; the bytes before the fault stay. -/
theorem test_stored_byte_end_of_input :
    failsWith (streamStep (stateAt .stored { Regs.fresh with sub := .sData, srem := 3 } [0x48, 0x65]))
      5 [0x48, 0x65] = true := by decide

/-! ### Dynamic headers (95_test_vectors.md, 2.7) -/

/-- R271: the counts clear the code-length-code lengths. -/
theorem test_counts :
    nextIs (exec (.dynCounts 1 0 14)
      (stateAt .dynamic { Regs.fresh with cll := List.replicate 19 7, clidx := 5 } [])) (fun t =>
      t.reg.hlit == 1 && t.reg.hclen == 14 && t.reg.cll == List.replicate 19 0 && t.reg.clidx == 0 &&
        t.reg.sub == .dCllens) = true := by decide

/-- R95, R273: the fourth length sent is that of symbol 0, and the last that of symbol 15. -/
theorem test_cllen_order :
    nextIs (exec (.dynCllen 5) (stateAt .dynamic { Regs.fresh with clidx := 3 } [])) (fun t =>
      t.reg.cll == (5 : BitVec 3) :: List.replicate 18 0 && t.reg.clidx == 4) = true ∧
    nextIs (exec (.dynCllen 5) (stateAt .dynamic { Regs.fresh with clidx := 18 } [])) (fun t =>
      t.reg.cll == List.replicate 15 0 ++ [(5 : BitVec 3), 0, 0, 0]) = true := by decide

/-- Code-length-code lengths by symbol: those of program P3 (18: 1, 1: 2, 2: 2), H12. -/
def cllP3 : List (BitVec 3) := [0, 2, 2, 0, 0, 0, 0, 0, 0, 0, 0, 0, 0, 0, 0, 0, 0, 0, 1]

/-- P3, Y8, Y9, Y10: a complete code, one under-subscribed, one over-subscribed, one empty. -/
theorem test_clbuild :
    nextIs (exec .dynClbuild (stateAt .dynamic { Regs.fresh with cll := cllP3 } [])) (fun t =>
      t.reg.sub == .dLens && t.reg.cltab.isSome) = true ∧
    failsWith (exec .dynClbuild (stateAt .dynamic { Regs.fresh with cll := cllP3.set 2 0 } [])) 1 [] = true ∧
    failsWith (exec .dynClbuild
      (stateAt .dynamic { Regs.fresh with cll := (cllP3.set 1 1).set 2 1 } [])) 1 [] = true ∧
    failsWith (exec .dynClbuild (stateAt .dynamic Regs.fresh [])) 1 [] = true := by decide +kernel

/-- R277: each of the sixteen rows gives its own symbol as the length. -/
theorem test_code_lengths :
    ([Instr.clLen0, .clLen1, .clLen2, .clLen3, .clLen4, .clLen5, .clLen6, .clLen7, .clLen8, .clLen9,
      .clLen10, .clLen11, .clLen12, .clLen13, .clLen14, .clLen15].zipIdx).all (fun x =>
        nextIs (exec x.1 (lensState 7 9 true)) (fun t =>
          t.reg.lens[7]? == some (BitVec.ofNat 4 x.2) && t.reg.lidx == 8 &&
            t.reg.prev == BitVec.ofNat 4 x.2 && t.reg.sub == .dLens)) = true := by decide +kernel

/-- R282: the 258th length completes the lengths. -/
theorem test_last_code_length :
    nextIs (exec .clLen1 (lensState 257 0 true)) (fun t => t.reg.sub == .dBuild && t.reg.lidx == 258) =
      true := by decide +kernel

/-- Y15: a repeat of three covers lengths 256, 257 and 258 of 259. -/
theorem test_repeat_crosses_alphabets :
    let s := lensState 256 1 true
    nextIs (exec (.clRep16 0) { s with reg := { s.reg with hdist := 1 } }) (fun t =>
      t.reg.lens.drop 256 == [(1 : BitVec 4), 1, 1] ++ List.replicate 61 0 && t.reg.sub == .dBuild) = true := by
  decide +kernel

/-- Y6: symbol 16 first, under both values of `REP16_AT_START`. -/
theorem test_repeat_at_start :
    failsWith (exec (.clRep16 3) (lensState 0 0 false)) 1 [] = true ∧
      nextIs (exec (.clRep16 3)
        { lensState 0 5 false with params := { defaultParams with rep16AtStart := .repeatZero } })
        (fun t => t.reg.lidx == 6 && t.reg.lens == List.replicate 320 0) = true := by decide +kernel

/-- Y7: `CL18 rep=138` twice is 276 of 258 lengths; 120 more would just fit. -/
theorem test_zero_run_overrun :
    failsWith (exec (.clZrep18 127) (lensState 138 0 true)) 1 [] = true ∧
      nextIs (exec (.clZrep18 109) (lensState 138 0 true)) (fun t =>
        t.reg.lidx == 258 && t.reg.sub == .dBuild) = true := by decide +kernel

/-- R279: `CL.ZREP17` runs 3 to 10 zeros over what stood there and makes 0 the previous length. -/
theorem test_zero_run_short :
    nextIs (exec (.clZrep17 7)
      (stateAt .dynamic { Regs.fresh with sub := .dLens, lens := List.replicate 320 9 } [])) (fun t =>
      t.reg.lens == List.replicate 10 0 ++ List.replicate 310 9 && t.reg.lidx == 10 && t.reg.prev == 0 &&
        t.reg.prevValid) = true := by decide +kernel

/-- A state whose 258 code lengths are in place, as `DYN.BUILD` finds it, with `lens` at 97, 98, 256 and
257. -/
def builtState (a b c d : BitVec 4) : State :=
  stateAt .dynamic
    { Regs.fresh with
      sub := .dBuild
      lens := List.replicate 97 0 ++ [a, b] ++ List.replicate 157 0 ++ [c, d] ++ List.replicate 62 0 } []

/-- Lengths 97: 1, 256: 2 and 98: 2 with the distance array `[1]`; Y11 without the third; Y12 with length 1
for the third. -/
theorem test_build :
    nextIs (exec .dynBuild (builtState 1 2 2 1)) (fun t =>
      t.reg.sub == .dData && t.reg.lltab.isSome && t.reg.dtab.isSome && t.reg.cltab == none &&
        t.reg.ll[98]? == some 2 && t.reg.dl[0]? == some 1 && t.reg.dl[1]? == some 0) = true ∧
    failsWith (exec .dynBuild (builtState 1 0 2 1)) 1 [] = true ∧
    failsWith (exec .dynBuild (builtState 1 1 2 1)) 1 [] = true := by decide +kernel

/-- Y3, Y4: an all-zero distance array is accepted, or faults at the build. -/
theorem test_build_empty_distance :
    nextIs (exec .dynBuild (builtState 1 2 2 0)) (fun t => t.reg.sub == .dData) = true ∧
      failsWith (exec .dynBuild
        { builtState 1 2 2 0 with params := { defaultParams with emptyDistCode := .faultAtBuild } }) 1 [] =
        true := by decide +kernel

/-! ### Huffman data (95_test_vectors.md, 2.5 and 2.6) -/

/-- The output after a match row, in `DEFLATE` mode. -/
def copies (i : Instr) (before after : List Byte) : Bool :=
  nextIs (exec i (dataState before)) fun t => t.buf.out == after && t.phase == .fixed

/-- F3: literals at the edges. -/
theorem test_literals :
    nextIs (exec (.lit 0x8F) (dataState [0x00])) (fun t =>
      t.buf.out == [0x00, 0x8F] && t.reg.sym == 0x8F) = true ∧
      copies (.fixedLl0To143 0x8F) [0x00] [0x00, 0x8F] = true ∧
      copies (.fixedLl144To255 0x90) [] [0x90] = true := by decide +kernel

/-- B1: the end of a final block; R245: and of one that is not. -/
theorem test_end_of_block :
    nextIs (exec .eob (stateAt .fixed { Regs.fresh with bfinal := true } [])) (fun t =>
      t.phase == .done && t.reg.sym == 256) = true ∧
      nextIs (exec (.fixedLl256To279 0 0 d0) (dataState [])) (fun t => t.phase == .header) = true := by
  decide +kernel

/-- F6, F7 and P2: overlapping copies, and a distance equal to `TOTAL`. -/
theorem test_matches_copy :
    copies (.matchL259 { sym := 1, extra := 0 }) [0x61, 0x62] [0x61, 0x62, 0x61, 0x62, 0x61, 0x62, 0x61] =
        true ∧
      copies (.matchL257 { sym := 2, extra := 0 }) [0x61, 0x62, 0x63] [0x61, 0x62, 0x63, 0x61, 0x62, 0x63] =
        true ∧
      copies (.fixedLl256To279 7 0 d0) [0x61] (List.replicate 10 0x61) = true := by decide +kernel

/-- F4, F5, F8: a distance above `TOTAL`. -/
theorem test_distance_above_total :
    failsWith (exec (.matchL257 d0) (dataState [])) 4 [] = true ∧
      failsWith (exec (.matchL257 { sym := 1, extra := 0 }) (dataState [0x61])) 4 [0x61] = true ∧
      failsWith (exec (.matchL257 { sym := 3, extra := 0 }) (dataState [0x61, 0x62, 0x63])) 4
        [0x61, 0x62, 0x63] = true := by decide +kernel

/-- F9, F10: a distance above `WSIZE`, and equal to it. -/
theorem test_distance_above_window :
    let s := dataState [0x61, 0x62, 0x63]
    failsWith (exec (.matchL257 { sym := 2, extra := 0 }) { s with cfg := { s.cfg with wsize := 2 } }) 4
        [0x61, 0x62, 0x63] = true ∧
      nextIs (exec (.matchL257 { sym := 2, extra := 0 }) { s with cfg := { s.cfg with wsize := 3 } }) (fun t =>
        t.buf.out == [0x61, 0x62, 0x63, 0x61, 0x62, 0x63]) = true := by decide +kernel

/-- F11, F12, F13, F14: symbols without a meaning in `DEFLATE` mode. -/
theorem test_invalid_symbols :
    failsWith (exec (.llInvalid 0) (dataState [])) 4 [] = true ∧
      failsWith (exec (.fixedLl280To287 7 0 d0) (dataState [])) 4 [] = true ∧
      failsWith (exec (.matchL257 { sym := 30, extra := 0 }) (dataState [0x61])) 4 [0x61] = true ∧
      failsWith (exec (.distInvalid 1) (dataState [0x61])) 4 [0x61] = true := by decide +kernel

/-- F13: no extra bit is read for distance symbol 30 in `DEFLATE` mode; X6: in `DEFLATE64` mode the 14 extra
bits are missing. -/
theorem test_distance_30_reads :
    reads (decodeElem (upperCtx .deflate) (at_ (word 5 1 ++ word 5 30)))
        (.matchL257 { sym := 30, extra := 0 }) = true ∧
      (match decodeElem (upperCtx .deflate64) (at_ (word 5 1 ++ word 5 30)) with
        | .ok _ _ => false
        | .raised e _ => e == .unexpectedEndOfStream
        | .rejected _ => false) = true := by decide +kernel

/-- F19: the two extra bits of symbol 269 are missing. -/
theorem test_length_extra_missing :
    (match readFixedRow .deflate (at_ (word 7 0b0001101)) with
      | .ok _ _ => false
      | .raised e _ => e == .unexpectedEndOfStream
      | .rejected _ => false) = true := by decide +kernel

/-- Lengths of 2.5: symbols 257, 264, 265, 266, 269, 284, 285, and X1, X3, X4 for `DEFLATE64` mode. -/
theorem test_lengths :
    [(257, 0, 3), (264, 0, 10), (265, 0, 11), (265, 1, 12), (266, 1, 14), (269, 3, 22), (284, 0, 227),
      (284, 30, 257), (284, 31, 258), (285, 0, 258)].all (fun x => lengthOf .deflate x.1 x.2.1 == x.2.2) =
        true ∧
      [(0, 3), (0xFFFF, 65538), (0x03E5, 1000)].all (fun x => lengthOf .deflate64 285 x.1 == x.2) = true := by
  decide +kernel

/-- Distances of 2.5, and X5, X11 for `DEFLATE64` mode. -/
theorem test_distances :
    [(0, 0, 1), (3, 0, 4), (4, 0, 5), (4, 1, 6), (5, 1, 8), (29, 0, 24577), (29, 8191, 32768)].all
        (fun x => distanceOf .deflate x.1 x.2.1 == some x.2.2) = true ∧
      [(30, 0, 32769), (31, 16383, 65536)].all
        (fun x => distanceOf .deflate64 x.1 x.2.1 == some x.2.2) = true := by decide +kernel

/-- Every length symbol copies its length, from the last byte. -/
theorem test_match_rows :
    [(Instr.matchL258 d0, 4), (.matchL260 d0, 6), (.matchL261 d0, 7), (.matchL262 d0, 8),
      (.matchL263 d0, 9), (.matchL264 d0, 10), (.matchL265 1 d0, 12), (.matchL266 1 d0, 14),
      (.matchL267 1 d0, 16), (.matchL268 1 d0, 18), (.matchL269 3 d0, 22), (.matchL270 3 d0, 26),
      (.matchL271 3 d0, 30), (.matchL272 3 d0, 34), (.matchL273 0 d0, 35), (.matchL274 0 d0, 43)].all
      (fun x => copies x.1 [0x61] (List.replicate (1 + x.2) 0x61)) = true := by decide +kernel

/-- X1 and X2: symbol 285 in the two modes. -/
theorem test_symbol_285 :
    let s := dataState [0x61]
    nextIs (exec (.matchL285D64 0 d0) { s with cfg := { s.cfg with mode := .deflate64 } }) (fun t =>
        t.buf.out == List.replicate 4 0x61) = true ∧
      nextIs (exec (.matchL285 d0) s) (fun t => t.buf.out.length == 259) = true := by decide +kernel

/-- The distance rows as the part of a match whose length is 1: symbol 3 is distance 4. -/
theorem test_distance_rows :
    let s := stateAt .fixed { Regs.fresh with sub := .fData, mlen := 1 } [1, 2, 3, 4, 5, 6, 7, 8]
    nextIs (exec .dist3 s) (fun t => t.buf.out.getLast? == some 5) = true ∧
      nextIs (exec (.dist5 1) s) (fun t => t.buf.out.getLast? == some 1) = true ∧
      nextIs (exec (.fixedD0To31 { sym := 4, extra := 1 }) s) (fun t => t.buf.out.getLast? == some 3) = true ∧
      failsWith (exec (.dist6 0) s) 4 [1, 2, 3, 4, 5, 6, 7, 8] = true := by decide +kernel

/-- Y2, Y5: the unused pattern of a degenerate distance code, and an empty distance code. -/
theorem test_incomplete_distance_code :
    let c := upperCtx .deflate
    (match readData { c with dtab := buildTable defaultCfg defaultParams .d [1] 15 }
        (at_ (word 5 1 ++ [true])) with
      | .ok _ _ => false
      | .raised e _ => e == .incompleteCode
      | .rejected _ => false) = true ∧
    (match readData { c with dtab := buildTable defaultCfg defaultParams .d [0] 15 } (at_ (word 5 1)) with
      | .ok _ _ => false
      | .raised e _ => e == .incompleteCode
      | .rejected _ => false) = true := by decide +kernel

/-! ### The run buffer and the resize policies (95_test_vectors.md, 2.8) -/

/-- M3, M5: copies on the buffer. -/
theorem test_copy_back :
    nextIs (copyBack 9 1 (dataState [0x61])) (fun t => t.buf.out == List.replicate 10 0x61) = true ∧
      nextIs (copyBack 2 3 (dataState [0x61, 0x62, 0x63])) (fun t =>
        t.buf.out == [0x61, 0x62, 0x63, 0x61, 0x62]) = true := by decide +kernel

/-- The configuration of M7 to M10. -/
def ringCfg : Cfg := { defaultCfg with initCap := 4, wsize := 4 }

/-- The ring of M7. -/
def ring (drained : Nat) : Buf :=
  { Buf.fresh ringCfg with
    out := [0x61, 0x62, 0x63, 0x64, 0x65, 0x66], drained := drained, rlo := 2
    phys := [(0, 0x65), (1, 0x66), (2, 0x63), (3, 0x64)] }

/-- M8: an append without growth overwrites the cell of a byte that has left the window. -/
theorem test_ring_append :
    (Buf.append ringCfg defaultGrowth 0 0x67 (ring 6)).phys = [(0, 0x65), (1, 0x66), (2, 0x67), (3, 0x64)] ∧
      (Buf.append ringCfg defaultGrowth 0 0x67 (ring 6)).cap = 4 := by decide +kernel

/-- M9: an append with growth lays the retained bytes out anew. -/
theorem test_ring_grows :
    (Buf.append ringCfg defaultGrowth 0 0x67 (ring 2)).cap = 8 ∧
      (Buf.append ringCfg defaultGrowth 0 0x67 (ring 2)).phys =
        [(2, 0x63), (3, 0x64), (4, 0x65), (5, 0x66), (6, 0x67)] := by decide +kernel

/-- M10: source and destination both wrap. -/
theorem test_ring_copy_wraps :
    nextIs (copyBack 3 4 { State.reset with cfg := ringCfg, buf := ring 6 }) (fun t =>
      t.buf.out.drop 6 == [0x63, 0x64, 0x65] &&
        t.buf.phys == [(0, 0x65), (1, 0x66), (2, 0x63), (3, 0x64)]) = true := by decide +kernel

/-- R192: a linear buffer whose top is reached moves the retained bytes to its front. -/
theorem test_linear_compacts :
    let cfg := { ringCfg with buffer := .copyOnGrow, initCap := 6 }
    let b := Buf.append cfg defaultGrowth 0 0x67
      { ring 6 with cap := 6, phys := [(0, 0x61), (1, 0x62), (2, 0x63), (3, 0x64), (4, 0x65), (5, 0x66)] }
    b.cap = 6 ∧ b.base = 3 ∧ b.phys = [(0, 0x64), (1, 0x65), (2, 0x66), (3, 0x67)] := by decide +kernel

/-- The policies of 2.8. -/
theorem test_policies :
    [(Policy.arithDoubling 4096, 1024, 1025, 2048), (.arithDoubling 4096, 1024, 5000, 8192),
      (.arithDoubling 4096, 8192, 8193, 12288), (.arithDoubling 4096, 8192, 20000, 20480),
      (.pow2Shift, 4096, 5000, 8192), (.pow2Shift, 4096, 20000, 32768), (.pow2Shift, 3, 4, 6),
      (.tablePaper, 16, 17, 23), (.tablePaper, 32, 60, 64), (.tablePaper, 64, 65, 91)].all
      (fun x => (grow x.1 defaultGrowth none x.2.1 x.2.2.1).1 == x.2.2.2) = true := by decide +kernel

/-! ### Host calls (95_test_vectors.md, 2.9) -/

/-- A session with a response list, in a phase, with an output of which `drained` bytes are delivered. -/
def sessionAt (phase : Phase) (out : List Byte) (drained : Nat) : State :=
  let s := stateAt phase Regs.fresh out
  { s with buf := { s.buf with drained := drained } }

/-- `CONSTRUCT` binds the source and takes nothing from it. -/
theorem test_construct :
    nextIs (exec (.construct
      { mode := none, decoder := 3, mapback := 0, buffer := 0, policy := 1, policyArg := 0, initCap := none
        wsize := none, blockSize := none } parserInput) State.reset) (fun t =>
      t.bits == Parser.start parserInput && t.phase == .header && t.cfg.wsize == 32768 &&
        t.host.responses == [.constructed]) = true := by decide +kernel

/-- R341: a number that names no decoder is refused, and no instance comes to be. -/
theorem test_construct_refuses :
    nextIs (exec (.construct
      { mode := none, decoder := 5, mapback := 0, buffer := 0, policy := 1, policyArg := 0, initCap := none
        wsize := none, blockSize := none } parserInput) State.reset) (fun t =>
      t.bits == State.reset.bits && t.host.responses == [.refusedConfig]) = true := by decide +kernel

/-- `READBUF(0)` returns count 0; `READ` on a fresh instance begins `Advance(1)`. -/
theorem test_read_begins :
    nextIs (exec (.readbuf 0) State.reset) (fun t => t.host.responses == [.count []]) = true ∧
      nextIs (exec .read State.reset) (fun t => t.host.call == some .read && t.host.want == 1) = true := by
  decide +kernel

/-- A byte at hand is returned without a step, and a `READBUF(4)` with ten at hand returns four. -/
theorem test_read_delivers :
    nextIs (exec .read (sessionAt .fixed [0x61, 0x62] 1)) (fun t =>
      t.host.responses == [.byte 0x62] && t.buf.drained == 2) = true ∧
      nextIs (exec (.readbuf 4) (sessionAt .fixed (List.replicate 10 0x61) 0)) (fun t =>
        t.host.responses == [.count (List.replicate 4 0x61)] && t.buf.drained == 4) = true := by
  decide +kernel

/-- At `DONE`: the last two bytes, then end-of-stream. -/
theorem test_read_at_done :
    nextIs (exec (.readbuf 4) (sessionAt .done (List.replicate 10 0x61) 8)) (fun t =>
      t.host.responses == [.count [0x61, 0x61]] && !t.eosSignalled) = true ∧
      nextIs (exec .read (sessionAt .done [0x61] 1)) (fun t =>
        t.host.responses == [.eos] && t.eosSignalled) = true := by decide +kernel

/-- F5: the byte before the fault comes first, or never, by `ERR_DELIVERY`. -/
theorem test_read_at_failed :
    let s := { sessionAt .failed [0x61] 0 with err := some .invalidBackReference, errPending := true }
    nextIs (exec (.readbuf 8) s) (fun t => t.host.responses == [.count [0x61]] && t.errPending) = true ∧
      nextIs (exec (.readbuf 8) { s with params := { defaultParams with errDelivery := .immediate } }) (fun t =>
        t.host.responses == [.error .invalidBackReference] && !t.errPending && t.buf.drained == 0) = true := by
  decide +kernel

/-- `CLOSE` is accepted after a fault and twice; a `READ` after it is refused. -/
theorem test_close :
    nextIs (exec .close (sessionAt .failed [] 0)) (fun t => t.phase == .closed) = true ∧
      nextIs (exec .close (sessionAt .closed [] 0)) (fun t => t.host.responses == [.closed]) = true ∧
      (match exec .read (sessionAt .closed [] 0) with
        | .next _ => false
        | .fault _ => false
        | .refused r => r == .readAfterClose) = true := by decide +kernel

/-- The element of a table word is what the next step from reset runs (log entry 10). -/
theorem test_fetch_word_runs :
    nextIs (step (State.reset.withFetchWord 8 4)) (fun t =>
      t.phase == .dynamic && t.reg.sub == .dCounts && t.bp == 3) = true := by decide +kernel

/-! ### Witnesses: each shows that the hypotheses of a statement can all be met -/

theorem test_witness_HeaderEntersBlock :
    headerRow (.bhdr true 0) = some (true, 0) ∧ headerRow (.blkStored false) = some (false, 0) ∧
      headerRow (.bhdr false 2) = some (false, 2) ∧ headerRow (.blkDynamic true) = some (true, 2) := by decide

/-- Before the first Fixed block and after it. -/
theorem test_witness_HeaderEntersFixed :
    headerRow (.bhdr true 1) = some (true, 1) ∧ headerRow (.blkFixed false) = some (false, 1) ∧
      State.reset.fixedBuilt = false ∧ { State.reset with fixedBuilt := true }.fixedBuilt = true := by decide

theorem test_witness_ReservedTypeFaults :
    headerRow (.bhdr true 3) = some (true, 3) ∧ headerRow (.blkReserved false) = some (false, 3) ∧
      State.reset.err = none := by decide

/-- `LEN` 0, 5 and 0xFFFF. -/
theorem test_witness_StoredHeaderAccepts :
    (0 : BitVec 16).toNat + (0xFFFF : BitVec 16).toNat = 65535 ∧
      (5 : BitVec 16).toNat + (0xFFFA : BitVec 16).toNat = 65535 ∧ (5 : BitVec 16) ≠ 0 ∧
      (0xFFFF : BitVec 16).toNat + (0 : BitVec 16).toNat = 65535 := by decide

/-- One too few, one too many. -/
theorem test_witness_StoredHeaderMismatchFaults :
    (5 : BitVec 16).toNat + (0xFFF9 : BitVec 16).toNat ≠ 65535 ∧
      (5 : BitVec 16).toNat + (0xFFFB : BitVec 16).toNat ≠ 65535 ∧
      (stateAt .stored Regs.fresh []).err = none := by decide

/-- The first and the last position of the order, and one past it. -/
theorem test_witness_ClLengthWritten :
    clOrder[0]? = some 16 ∧ clOrder[18]? = some 15 ∧ State.reset.reg.cll.length = 19 ∧
      (∀ c, clOrder[19]? ≠ some c) := by
  refine ⟨by decide, by decide, by decide, fun c => by simp [clOrder]⟩

/-- A complete code-length code, and a degenerate one. -/
theorem test_witness_ClTableBuilt :
    checkHealth .acceptFaultOnUse .cl (cllP3.map BitVec.toNat) 7 = some .complete ∧
      checkHealth .acceptFaultOnUse .cl ((1 : BitVec 3) :: List.replicate 18 0 |>.map BitVec.toNat) 7 =
        some .degenerate := by decide +kernel

/-- The first and the last length, in the last place as well. -/
theorem test_witness_ClLengthProduced :
    clLenRow .clLen0 = some 0 ∧ clLenRow .clLen15 = some 15 ∧
      (lensState 319 0 true).reg.lidx < (lensState 319 0 true).reg.lens.length := by decide +kernel

/-- A repeat that just fits, with a previous length and without. -/
theorem test_witness_RepeatPrevious :
    (lensState 252 5 true).reg.lidx + (3 + (3 : BitVec 2).toNat) ≤ lensWanted (lensState 252 5 true) ∧
      (lensState 252 5 true).reg.prevValid = true ∧ (lensState 252 5 true).reg.prev = 5 ∧
      (lensState 0 5 false).reg.prevValid = false ∧
      { lensState 0 5 false with params := { defaultParams with rep16AtStart := .repeatZero } }.params.rep16AtStart =
        .repeatZero := by decide

/-- The longest runs where they just fit. -/
theorem test_witness_ZeroRun :
    zeroRunRow (.clZrep17 7) = some 10 ∧ zeroRunRow (.clZrep18 127) = some 138 ∧
      (lensState 248 0 true).reg.lidx + 10 ≤ lensWanted (lensState 248 0 true) ∧
      (lensState 120 0 true).reg.lidx + 138 ≤ lensWanted (lensState 120 0 true) := by decide

/-- The same runs one place further on; a repeat at the start. -/
theorem test_witness_RepeatFaults :
    (lensState 249 0 true).err = none ∧
      lensWanted (lensState 249 0 true) < (lensState 249 0 true).reg.lidx + 10 ∧
      lensWanted (lensState 121 0 true) < (lensState 121 0 true).reg.lidx + 138 ∧
      lensWanted (lensState 253 0 true) < (lensState 253 0 true).reg.lidx + (3 + (3 : BitVec 2).toNat) ∧
      (lensState 0 0 false).reg.prevValid = false ∧ (lensState 0 0 false).params.rep16AtStart = .fault := by
  decide

/-- The arrays of a small dynamic block. -/
theorem test_witness_DataTablesBuilt :
    ∃ (s : State) (ll dl : List (BitVec 4)), ll.length = 288 ∧ dl.length = 32 ∧
      (∀ k < 288, ll[k]? = some (if k < nlit s.reg.hlit then s.reg.lens.getD k 0 else 0)) ∧
      (∀ c < 32, dl[c]? =
        some (if c < ndist s.reg.hdist then s.reg.lens.getD (nlit s.reg.hlit + c) 0 else 0)) ∧
      checkHealth s.params.emptyDistCode .ll (ll.map BitVec.toNat) 15 = some .complete ∧
      checkHealth s.params.emptyDistCode .d (dl.map BitVec.toNat) 15 = some .degenerate := by
  refine ⟨builtState 1 2 2 1, dynLl (builtState 1 2 2 1).reg, dynDl (builtState 1 2 2 1).reg, ?_⟩
  decide +kernel

/-- Arrays that the check judges each way; a code-length code, a literal/length code and a distance code that
fail it. -/
theorem test_witness_UnhealthyCodeFaults :
    (∀ l ∈ ([0, 0, 0] : List Nat), l ≤ 15 ∧ l = 0) ∧ (∀ l ∈ ([15, 0] : List Nat), l ≤ 15) ∧
      (∃ l ∈ ([15, 0] : List Nat), l ≠ 0) ∧
      State.reset.err = none ∧
      checkHealth .acceptFaultOnUse .cl (State.reset.reg.cll.map BitVec.toNat) 7 = none ∧
      checkHealth .acceptFaultOnUse .ll ((dynLl (builtState 1 0 2 1).reg).map BitVec.toNat) 15 = none ∧
      checkHealth .acceptFaultOnUse .d ((dynDl (builtState 1 2 2 2).reg).map BitVec.toNat) 15 = none := by
  decide +kernel

theorem test_witness_LiteralAppends :
    literalRow (.lit 0) = some 0 ∧ literalRow (.fixedLl0To143 143) = some 143 ∧
      literalRow (.fixedLl144To255 255) = some 255 := by decide

theorem test_witness_EndOfBlock : eobRow .eob = true ∧ eobRow (.fixedLl256To279 0 0 d0) = true := by decide

/-- Distances equal to the bytes there are and to the window, by a row of each shape. -/
theorem test_witness_MatchCopies :
    let s := dataState [0x61, 0x62, 0x63]
    matchRow s.cfg.mode (.matchL257 { sym := 2, extra := 0 }) = some (257, 3, { sym := 2, extra := 0 }) ∧
      matchRow s.cfg.mode (.fixedLl280To287 5 0 { sym := 2, extra := 0 }) =
        some (285, 258, { sym := 2, extra := 0 }) ∧
      distanceOf s.cfg.mode 2 0 = some 3 ∧ 3 ≤ s.total ∧ 3 ≤ s.cfg.wsize ∧
      Buf.Retains s.cfg.wsize s.buf := by
  refine ⟨by decide, by decide, by decide, by decide, by decide, ?_⟩
  unfold Buf.Retains
  decide

theorem test_witness_DistancePartCopies :
    let s := dataState [0x61, 0x62, 0x63]
    distPartRow .dist2 = some (2, 0) ∧ distPartRow (.fixedD0To31 { sym := 0, extra := 0 }) = some (0, 0) ∧
      distanceOf s.cfg.mode 2 0 = some 3 ∧ distanceOf s.cfg.mode 0 0 = some 1 ∧ 3 ≤ s.total ∧
      3 ≤ s.cfg.wsize ∧ Buf.Retains s.cfg.wsize s.buf := by
  refine ⟨by decide, by decide, by decide, by decide, by decide, by decide, ?_⟩
  unfold Buf.Retains
  decide

/-- One more than there are bytes, one more than the window, and no distance in the mode. -/
theorem test_witness_IllegalDistanceFaults :
    (dataState [0x61]).err = none ∧
      matchRow .deflate (.matchL257 { sym := 1, extra := 0 }) = some (257, 3, { sym := 1, extra := 0 }) ∧
      distanceOf .deflate 1 0 = some 2 ∧ (dataState [0x61]).total < 2 ∧
      { defaultCfg with wsize := 1 }.wsize < 2 ∧ distanceOf .deflate 30 0 = none ∧
      distPartRow .dist1 = some (1, 0) ∧ distPartRow (.dist30D64 0) = some (30, 0) := by decide

theorem test_witness_InvalidSymbolFaults :
    invalidRow (.llInvalid 1) = true ∧ invalidRow (.distInvalid 0) = true ∧
      invalidRow (.fixedLl280To287 6 0 d0) = true ∧ State.reset.err = none := by decide

/-- Arguments for `CONSTRUCT`. -/
def rawCfg (decoder : BitVec 3) (policy : BitVec 4) (arg : Nat) (cap wsize : Option Nat) : RawCfg :=
  { mode := some 0, decoder := decoder, mapback := 1, buffer := 4, policy := policy, policyArg := arg
    initCap := cap, wsize := wsize, blockSize := some 1 }

/-- Every field at an end of its range; each refusal just past one. -/
theorem test_witness_ConstructChecks :
    decoderOf (rawCfg 4 8 0 (some 1) (some 32768)).decoder = some .table ∧
      bufferOf (rawCfg 4 8 0 none none).buffer = some .nativeLenient ∧
      policyOf (rawCfg 4 8 0 none none).policy 0 = some (.random 0) ∧
      maxWsize (modeOf (rawCfg 4 8 0 none none).mode) = 32768 ∧
      decoderOf 5 = none ∧ bufferOf 5 = none ∧ policyOf 9 0 = none ∧ policyOf 0 0 = none ∧
      policyOf 0 1 = some (.arithDoubling 1) ∧ (rawCfg 0 1 0 (some 0) (some 32769)).initCap = some 0 := by decide

/-- The session with the read call `c` in progress. -/
def calling (c : HostCall) (want : Nat) (s : State) : State :=
  { s with host := { s.host with call := some c, want := want } }

/-- A byte at hand, with no call in progress and with one whose `Advance` is over: in a running phase, and
after a fault under `drain_first`. -/
theorem test_witness_ReadDelivers :
    let s := sessionAt .fixed [0x61] 0
    let t := calling .read 1 (sessionAt .failed [0x61] 0)
    (s.phase ≠ .closed ∧ callOver .read s ∧ s.buf.out[s.buf.drained]? = some 0x61 ∧
      ¬(s.phase = .failed ∧ s.params.errDelivery = .immediate)) ∧
    (t.phase ≠ .closed ∧ callOver .read t ∧ t.buf.out[t.buf.drained]? = some 0x61 ∧
      ¬(t.phase = .failed ∧ t.params.errDelivery = .immediate)) :=
  ⟨⟨by decide, .inl rfl, by decide, by decide⟩,
    ⟨by decide, .inr ⟨.read, rfl, rfl, by decide⟩, by decide, by decide⟩⟩

/-- Enough bytes in a running phase, and some at `DONE`, with no call in progress; some after a fault with the
call in progress. -/
theorem test_witness_ReadbufDelivers :
    let s := sessionAt .fixed [0x61, 0x62] 0
    let t := sessionAt .done [0x61] 0
    let u := calling (.readbuf 2) 2 (sessionAt .failed [0x61] 0)
    (s.phase ≠ .closed ∧ s.host.call = none ∧ 1 ≤ s.atHand ∧ 2 ≤ s.atHand ∧ s.phase ≠ .failed) ∧
      (t.phase ≠ .closed ∧ t.host.call = none ∧ 1 ≤ t.atHand ∧ running t.phase = false ∧ t.phase ≠ .failed) ∧
      (u.phase ≠ .closed ∧ u.host.call = some (.readbuf 2) ∧ 1 ≤ u.host.want ∧
        u.needsMore u.host.want = false ∧ 1 ≤ u.atHand ∧
        ¬(u.phase = .failed ∧ u.params.errDelivery = .immediate)) := by decide

/-- Nothing at hand, and one byte less than is asked for. -/
theorem test_witness_ReadAdvances :
    (running State.reset.phase = true ∧ State.reset.host.call = none ∧ State.reset.atHand = 0 ∧
      State.reset.phase ≠ .closed) ∧
    (let s := sessionAt .fixed [0x61, 0x62] 0
     running s.phase = true ∧ s.host.call = none ∧ s.atHand < 3 ∧ 1 ≤ s.atHand) := by decide

theorem test_witness_EndOfStreamReported :
    let s := sessionAt .done [0x61] 1
    let t := calling (.readbuf 1) 1 s
    (readCall .read = true ∧ s.phase = .done ∧ callOver .read s ∧ s.atHand = 0) ∧
      (readCall (.readbuf 1) = true ∧ t.phase = .done ∧ callOver (.readbuf 1) t ∧ t.atHand = 0) :=
  ⟨⟨rfl, rfl, .inl rfl, by decide⟩, ⟨rfl, rfl, .inr ⟨.readbuf 1, rfl, rfl, by decide⟩, by decide⟩⟩

/-- Nothing at hand between calls; a byte at hand under `immediate` in the call during which the fault
occurs. -/
theorem test_witness_FaultReported :
    let s := { sessionAt .failed [] 0 with err := some .incompleteCode }
    let t := calling (.readbuf 8) 8
      { sessionAt .failed [0x61] 0 with
        err := some .invalidBackReference, params := { defaultParams with errDelivery := .immediate } }
    (readCall .read = true ∧ s.phase = .failed ∧ s.err = some .incompleteCode ∧ callOver .read s ∧
      s.atHand = 0) ∧
    (readCall (.readbuf 8) = true ∧ t.phase = .failed ∧ t.err = some .invalidBackReference ∧
      callOver (.readbuf 8) t ∧ t.params.errDelivery = .immediate ∧ t.atHand = 1) :=
  ⟨⟨rfl, rfl, rfl, .inl rfl, by decide⟩,
    ⟨rfl, rfl, rfl, .inr ⟨.readbuf 8, rfl, rfl, by decide⟩, rfl, by decide⟩⟩

theorem test_witness_CloseReleases :
    (sessionAt .closed [] 0).phase = .closed ∧ (sessionAt .failed [] 0).phase ≠ .closed := by decide

theorem test_witness_ReadAfterCloseRefused : (sessionAt .closed [] 0).phase = .closed := by decide

/-- A session with a source and a read call in progress. -/
def sessionWith (phase : Phase) (source : List Byte) : State :=
  { stateAt phase Regs.fresh [] with
    bits := Parser.start source
    host := { call := some .read, want := 1, calls := [.close], responses := [] } }

/-- An element that is read, and one that cannot be. -/
theorem test_witness_StepRunsDecoded :
    (∃ p, (sessionWith .header [0x01]).host.call = some .read ∧
      (sessionWith .header [0x01]).needsMore (sessionWith .header [0x01]).host.want = true ∧
      (Instr.blkStored true).wf .deflate = true ∧
      decodeElem (sessionWith .header [0x01]).ctx (sessionWith .header [0x01]).bits =
        .ok (.blkStored true) p) ∧
    (∃ p, decodeElem (sessionWith .header []).ctx (sessionWith .header []).bits =
        .raised .unexpectedEndOfStream p ∧ (sessionWith .header []).err = none) :=
  ⟨⟨_, by decide, by decide, by decide, rfl⟩, ⟨_, rfl, by decide⟩⟩

/-- A call to complete, of either kind; a call to take. -/
theorem test_witness_StepServesHost :
    (sessionWith .done []).host.call = some .read ∧ (sessionWith .done []).needsMore 1 = false ∧
      { sessionAt .done [] 0 with
          host := { call := some (.readbuf 2), want := 2, calls := [], responses := [] } }.needsMore 2 = false ∧
      { sessionAt .done [] 0 with
          host := { call := none, want := 0, calls := [.close], responses := [] } }.host.calls = [.close] ∧
      State.reset.host.calls = [] := by decide

/-- A parser with bits buffered, and none beyond them. -/
theorem midway_coherent : (midway 1 5).Coherent := by
  refine ⟨by decide, by decide, by decide, fun h => ?_⟩
  exact absurd h (by decide)

/-- A field that is there, of 16 bits and of none, and one that is not. -/
theorem test_witness_GetBitsReadsField :
    (midway 1 5).Coherent ∧ (midway 1 5).Lazy ∧ 16 ≤ (midway 1 5).upcoming.length ∧
      (Parser.start []).Coherent ∧ (Parser.start []).Lazy ∧ (Parser.start []).upcoming.length < 1 := by
  refine ⟨midway_coherent, ?_, by decide, Parser.start_coherent _, Parser.start_lazy _, by decide⟩
  unfold Parser.Lazy
  decide

theorem test_witness_AlignSkipsToByte : (midway 1 5).Coherent ∧ (midway 1 5).Lazy := by
  refine ⟨midway_coherent, ?_⟩
  unfold Parser.Lazy
  decide

/-- Code S1: a used symbol with its number, two symbols of one length, and one code that is healthy; the
unused symbol of H8. -/
theorem test_witness_CodewordsPrefixFree :
    ([2, 1, 3, 3] : List Nat)[2]? = some 3 ∧ ([2, 1, 3, 3] : List Nat)[3]? = some 3 ∧
      ([1, 2, 2, 0] : List Nat)[3]? = some 0 ∧
      (canonicalConstruct [2, 1, 3, 3])[2]? = some (some 6) ∧
      checkHealth .acceptFaultOnUse .ll [2, 1, 3, 3] 15 = some .complete ∧
      (∀ l ∈ ([2, 1, 3, 3] : List Nat), l ≤ 15) ∧ codewordOf [2, 1, 3, 3] 0 = some [true, false] ∧
      codewordOf [2, 1, 3, 3] 1 = some [false] := by decide +kernel

/-- H1: the degenerate code and the bit that no codeword begins with. -/
theorem test_witness_DegenerateCode :
    (∃ t, buildTable defaultCfg defaultParams .d [1, 0, 0] 15 = some t ∧ t.kind = .degenerate) ∧
      ([1, 0, 0] : List Nat)[0]? = some 1 ∧ (∀ l ∈ ([1, 0, 0] : List Nat), l ≤ 1) ∧
      (∃ rest, (Parser.start [0x01]).upcoming = true :: rest) ∧ (Parser.start [0x01]).Coherent :=
  ⟨⟨_, rfl, rfl⟩, by decide, by decide, ⟨_, rfl⟩, Parser.start_coherent _⟩

theorem test_witness_TreeMeetsContract :
    (∃ t, buildTable { defaultCfg with decoder := .tree } defaultParams .ll [2, 1, 3, 3] 15 = some t) ∧
      (∀ l ∈ ([2, 1, 3, 3] : List Nat), l ≤ 15) ∧ (midway 1 5).Coherent :=
  ⟨⟨_, rfl⟩, by decide, midway_coherent⟩

theorem test_witness_MapsMeetContract :
    ([DecoderKind.trieStateSymbol, .trieSymbolState, .genericMap].all fun d =>
      (buildTable { defaultCfg with decoder := d } defaultParams .ll [2, 1, 3, 3] 15).isSome) = true ∧
      (∀ l ∈ ([2, 1, 3, 3] : List Nat), l ≤ 15) ∧ (midway 1 5).Coherent :=
  ⟨by decide +kernel, by decide, midway_coherent⟩

theorem test_witness_TableMeetsContract :
    (∃ t, buildTable { defaultCfg with decoder := .table } defaultParams .ll [2, 1, 3, 3] 15 = some t) ∧
      (∀ l ∈ ([2, 1, 3, 3] : List Nat), l ≤ 15) ∧ (midway 1 5).Coherent :=
  ⟨⟨_, rfl⟩, by decide, midway_coherent⟩

/-- A stored header after five pad bits: the parser stands after the block header's three bits. -/
theorem test_witness_FixedWidthRoundTrip :
    ∃ (rd : Parser → Fetched Instr) (p : Parser) (w rest : Bits), fixedWidthReader (.storedHdr 0x0005 0xFFFA) = some rd ∧
      encode (fixedEnc .deflate) (.storedHdr 0x0005 0xFFFA) = some w ∧
      (fixedEnc .deflate).pad = p.bitcnt ∧ p.Coherent ∧ p.Lazy ∧ p.upcoming = w ++ rest := by
  refine ⟨readStoredHdr,
    { input := [0x01, 0x05, 0x00, 0xFA, 0xFF, 0x48], ipos := 1, bitbuf := List.replicate 5 false
      srcEos := false }, _, byteBits 0x48, rfl, rfl, by decide, ⟨by decide, by decide, by decide, ?_⟩, ?_,
    by decide⟩
  · exact fun h => absurd h (by decide)
  · unfold Parser.Lazy
    decide

/-- The stream of the bytes that the encoded bits pack to begins with those bits. -/
def streamHolds (c : EncCtx) (i : Instr) : Bool :=
  match encode c i with
  | some w => (Parser.start (packBytes w)).upcoming.take w.length == w
  | none => false

/-- Every row of a fixed-width format, from a parser with nothing buffered, operands at the ends of their
ranges. -/
theorem test_witness_FixedWidthRoundTrip_rows :
    ([Instr.blkStored false, .blkFixed true, .blkDynamic false, .blkReserved true, .storedHdr 0 0xFFFF,
      .storedHdr 0xFFFF 0, .storedByte 0, .storedByte 0xFF, .dynCounts 0 0 0, .dynCounts 31 31 15,
      .dynCllen 0, .dynCllen 7].all fun i =>
        (fixedWidthReader i).isSome && streamHolds { fixedEnc .deflate with pad := 0 } i) = true ∧
      (∀ bytes, (Parser.start bytes).Coherent ∧ (Parser.start bytes).Lazy) :=
  ⟨by decide +kernel, fun bytes => ⟨Parser.start_coherent bytes, Parser.start_lazy bytes⟩⟩

/-- Every row of the fixed codewords, at the ends of its range. -/
theorem test_witness_FixedPatternRoundTrip :
    ([Instr.fixedLl0To143 0, .fixedLl0To143 143, .fixedLl144To255 144, .fixedLl144To255 255,
      .fixedLl256To279 0 0 d0, .fixedLl256To279 1 0 { sym := 29, extra := 8191 },
      .fixedLl256To279 23 15 d0, .fixedLl280To287 0 0 d0, .fixedLl280To287 5 0 d0,
      .fixedLl280To287 6 0 d0, .fixedLl280To287 7 0 d0, .fixedD0To31 d0,
      .fixedD0To31 { sym := 31, extra := 0 }].all fun i =>
        i.wf .deflate && streamHolds (fixedEnc .deflate) i) = true ∧
      (∀ bytes, (Parser.start bytes).Coherent) :=
  ⟨by decide +kernel, Parser.start_coherent⟩

/-- Symbol 257 with the codeword `1` and distance symbol 0 with the codeword `0`. -/
theorem test_witness_HuffmanDataRoundTrip :
    ∃ (c : Ctx) (e : EncCtx) (lt dt : Table) (w rest : Bits),
      defaultCfg.decoder = .tree ∧ e.ll.length ≤ 288 ∧ e.d.length ≤ 32 ∧
      (∀ l ∈ e.ll, l ≤ 15) ∧ (∀ l ∈ e.d, l ≤ 15) ∧
      buildTable defaultCfg defaultParams .ll e.ll 15 = some lt ∧
      buildTable defaultCfg defaultParams .d e.d 15 = some dt ∧
      c.mode = e.mode ∧ c.lltab = some lt ∧ c.dtab = some dt ∧ dataRow e.mode (.matchL257 d0) = true ∧
      (Instr.matchL257 d0).wf e.mode = true ∧ encode e (.matchL257 d0) = some w ∧
      (Parser.start [0x01]).Coherent ∧ (Parser.start [0x01]).upcoming = w ++ rest := by
  have hl : (buildTable defaultCfg defaultParams .ll (List.replicate 256 0 ++ [1, 1]) 15).isSome = true := by
    decide +kernel
  have hd : (buildTable defaultCfg defaultParams .d [1] 15).isSome = true := by decide +kernel
  obtain ⟨lt, hlt⟩ := Option.isSome_iff_exists.mp hl
  obtain ⟨dt, hdt⟩ := Option.isSome_iff_exists.mp hd
  refine ⟨{ ctxOf .dynamic .dData with lltab := some lt, dtab := some dt },
    { fixedEnc .deflate with ll := List.replicate 256 0 ++ [1, 1], d := [1] }, lt, dt, [true, false],
    List.replicate 6 false, rfl, by decide +kernel, by decide, by decide +kernel, by decide, hlt, hdt, rfl, rfl,
    rfl, rfl, by decide, by decide +kernel, Parser.start_coherent _, by decide⟩

/-- The code of H12: symbol 18 with the extra field 0x7F, as the first symbol under `REP16_AT_START =
fault`. -/
theorem test_witness_CodeLengthRoundTrip :
    ∃ (c : Ctx) (e : EncCtx) (ct : Table) (w rest : Bits),
      defaultCfg.decoder = .tree ∧ e.cl.length ≤ 19 ∧ (∀ l ∈ e.cl, l ≤ 7) ∧
      buildTable defaultCfg defaultParams .cl e.cl 7 = some ct ∧ c.cltab = some ct ∧ c.rep16Stops = true ∧
      (∀ x, Instr.clZrep18 0x7F = .clRep16 x → c.rep16Stops = false) ∧
      clRow (.clZrep18 0x7F) = true ∧ encode e (.clZrep18 0x7F) = some w ∧
      (Parser.start [0xFE]).Coherent ∧ (Parser.start [0xFE]).upcoming = w ++ rest := by
  have h : (buildTable defaultCfg defaultParams .cl (cllP3.map BitVec.toNat) 7).isSome = true := by
    decide +kernel
  obtain ⟨ct, hct⟩ := Option.isSome_iff_exists.mp h
  refine ⟨{ ctxOf .dynamic .dLens with cltab := some ct, rep16Stops := true },
    { fixedEnc .deflate with cl := cllP3.map BitVec.toNat }, ct, false :: List.replicate 7 true, [],
    rfl, by decide, by decide, hct, rfl, rfl, fun x hx => Instr.noConfusion hx, rfl, by decide +kernel,
    Parser.start_coherent _, by decide⟩

/-- A code in which symbol 16 has the codeword `0`, with the extra field 3, where a previous length exists. -/
theorem test_witness_CodeLengthRoundTrip_rep16 :
    ∃ (c : Ctx) (e : EncCtx) (ct : Table) (w rest : Bits),
      defaultCfg.decoder = .tree ∧ e.cl.length ≤ 19 ∧ (∀ l ∈ e.cl, l ≤ 7) ∧
      buildTable defaultCfg defaultParams .cl e.cl 7 = some ct ∧ c.cltab = some ct ∧
      (∀ x, Instr.clRep16 3 = .clRep16 x → c.rep16Stops = false) ∧
      clRow (.clRep16 3) = true ∧ encode e (.clRep16 3) = some w ∧
      (Parser.start [0x06]).Coherent ∧ (Parser.start [0x06]).upcoming = w ++ rest := by
  have h : (buildTable defaultCfg defaultParams .cl (onlyLens 16) 7).isSome = true := by
    decide +kernel
  obtain ⟨ct, hct⟩ := Option.isSome_iff_exists.mp h
  refine ⟨{ ctxOf .dynamic .dLens with cltab := some ct },
    { fixedEnc .deflate with cl := onlyLens 16 }, ct, [false, true, true], List.replicate 5 false,
    rfl, by decide, by decide, hct, rfl, fun _ _ => rfl, rfl, by decide +kernel, Parser.start_coherent _,
    by decide⟩

theorem test_witness_GrowMeetsRequest :
    1 ≤ 1 ∧ 1 < 2 ∧ (∀ step, Policy.arithDoubling 1 = .arithDoubling step → 1 ≤ step) :=
  ⟨by decide, by decide, fun step h => by injection h with h; omega⟩

theorem test_witness_Pow2ShiftDoubles : 1 ≤ 1 ∧ (1 : Nat) = 2 ^ 0 := by decide

/-- The default paper table: its least entry, its greatest, and past it. -/
theorem test_witness_TableTakesSmallest :
    defaultGrowth.paper.Pairwise (· < ·) ∧ (∃ e ∈ defaultGrowth.paper, 16777216 ≤ e) ∧
      (∀ e ∈ defaultGrowth.paper, e < 16777217) := by
  refine ⟨by decide, ⟨16777216, by decide, by decide⟩, by decide⟩

/-- The arrays at reset have their sizes. -/
theorem fresh_sizes :
    Regs.fresh.cll.length = 19 ∧ Regs.fresh.lens.length = 320 ∧ Regs.fresh.ll.length = 288 ∧
      Regs.fresh.dl.length = 32 :=
  ⟨List.length_replicate, List.length_replicate, List.length_replicate, List.length_replicate⟩

/-- The session invariant in a session with a source and a call: at its first header, done, and failed. -/
theorem sessionWith_inv (phase : Phase) (source : List Byte) (h : phase = .header ∨ phase = .done) :
    (sessionWith phase source).Inv := by
  have hp : PhaseOk (sessionWith phase source) := by
    rcases h with rfl | rfl <;> trivial
  refine ⟨rfl, ?_, ?_, rfl, fun _ => ?_, fun _ _ => ?_, fun _ _ => ?_, hp⟩
  · refine ⟨fun _ => ⟨fun hf => ?_, fun he => absurd rfl he⟩, show (0 : BitVec 4) ≤ 5 by decide⟩
    rcases h with rfl | rfl <;> exact nomatch hf
  · refine ⟨fun hf => ?_, rfl⟩
    rcases h with rfl | rfl <;> exact nomatch hf
  · unfold Buf.Retains
    exact ⟨Nat.le_refl 0, Nat.zero_le _, Nat.zero_le _⟩
  · exact ⟨Parser.start_coherent source, Parser.start_lazy source⟩
  · exact ⟨fresh_sizes.1, fresh_sizes.2.1, fresh_sizes.2.2.1, fresh_sizes.2.2.2, fun hb => Bool.noConfusion hb⟩

/-- A session that has failed. -/
def failedSession : State :=
  { sessionAt .failed [0x61] 0 with err := some .unexpectedEndOfStream, errPending := true }

theorem failedSession_inv : failedSession.Inv := by
  refine ⟨by decide, ?_, trivial, rfl, fun _ => ?_, fun h _ => absurd rfl h, fun h _ => absurd rfl h, trivial⟩
  · unfold StatusOk
    decide
  · unfold Buf.Retains
    decide

/-- The first header of a stored block. -/
theorem test_witness_StepKeepsInvariant :
    ∃ t, (sessionWith .header [0x01]).Inv ∧ step (sessionWith .header [0x01]) = .next t :=
  ⟨_, sessionWith_inv _ _ (.inl rfl), rfl⟩

/-- Open sessions, and a closed one. -/
theorem test_witness_StepNeverStops :
    (sessionWith .header []).Inv ∧ failedSession.Inv ∧ (sessionAt .closed [] 0).Inv := by
  refine ⟨sessionWith_inv _ _ (.inl rfl), failedSession_inv, ?_⟩
  refine ⟨by decide, ?_, trivial, rfl, fun h => absurd rfl h, fun _ h => absurd rfl h, fun _ h => absurd rfl h,
    trivial⟩
  unfold StatusOk
  decide

/-- A session with one byte produced, where the storage holds it. -/
def oneByteSession : State :=
  let s := sessionWith .header [0x01]
  { s with buf := { s.buf with out := [0x61], drained := 1, phys := [(0, 0x61)] }
           host := { s.host with responses := [.constructed, .byte 0x61] } }

theorem oneByteSession_inv : oneByteSession.Inv := by
  refine ⟨by decide, ?_, ⟨by decide, rfl⟩, rfl, fun _ => ?_, fun _ _ => ?_, fun _ _ => ?_, trivial⟩
  · unfold StatusOk
    decide
  · unfold Buf.Retains
    decide
  · exact ⟨Parser.start_coherent _, Parser.start_lazy _⟩
  · exact ⟨fresh_sizes.1, fresh_sizes.2.1, fresh_sizes.2.2.1, fresh_sizes.2.2.2, fun hb => Bool.noConfusion hb⟩

theorem test_witness_StepKeepsLayout :
    ∃ t, oneByteSession.Inv ∧ oneByteSession.phase ≠ .closed ∧
      Buf.LaidOut oneByteSession.cfg.buffer oneByteSession.buf ∧ step oneByteSession = .next t ∧
      t.phase ≠ .closed := by
  refine ⟨_, oneByteSession_inv, by decide, ⟨fun _ => by decide, fun h => absurd rfl h, fun p _ hp => ?_⟩, rfl,
    by decide⟩
  have : p = 0 := Nat.lt_one_iff.mp hp
  subst this
  rfl

theorem test_witness_StepKeepsDelivery :
    ∃ t, oneByteSession.Inv ∧ DeliveredOk oneByteSession ∧ step oneByteSession = .next t :=
  ⟨_, oneByteSession_inv, fun _ => rfl, rfl⟩

/-- An end of block in a state that has an error recorded, and in one that has none. -/
theorem test_witness_SessionPromises :
    (∃ t, exec .eob failedSession = .next t ∧ failedSession.err ≠ none ∧ t.phase ≠ .closed) ∧
      (∃ t, exec .close State.reset = .next t) :=
  ⟨⟨_, rfl, by decide, by decide⟩, ⟨_, rfl⟩⟩

/-- A read at `DONE`, and a failed session with nothing to do. -/
theorem test_witness_DoneAndFailedAreFinal :
    (∃ t, (sessionWith .done []).Inv ∧ (sessionWith .done []).phase = .done ∧
      step (sessionWith .done []) = .next t) ∧
    (∃ t, failedSession.Inv ∧ failedSession.phase = .failed ∧ step failedSession = .next t) :=
  ⟨⟨_, sessionWith_inv _ _ (.inr rfl), rfl, rfl⟩, ⟨_, failedSession_inv, rfl, rfl⟩⟩

theorem test_witness_FaultsArePrecise :
    ∃ t, running State.reset.phase = true ∧ State.reset.err = none ∧
      exec (.blkReserved true) State.reset = .next t ∧ t.phase = .failed :=
  ⟨_, rfl, rfl, rfl, rfl⟩

theorem test_witness_BitPointerAdvances :
    ∃ t, (sessionWith .header [0x01]).Inv ∧ running (sessionWith .header [0x01]).phase = true ∧
      streamStep (sessionWith .header [0x01]) = .next t ∧ t.phase ≠ .failed :=
  ⟨_, sessionWith_inv _ _ (.inl rfl), rfl, rfl, by decide⟩

theorem test_witness_ReadCallCompletes :
    (sessionWith .header [0x01]).Inv ∧ (sessionWith .header [0x01]).host.call ≠ none :=
  ⟨sessionWith_inv _ _ (.inl rfl), by decide⟩

/-- The same session in another buffer strategy with another policy. -/
theorem test_witness_BufferStrategiesInvisible :
    let s := oneByteSession
    let t := { s with
      cfg := { s.cfg with buffer := .blockList, policy := .random 7, initCap := 1, blockSize := 2 }
      buf := { s.buf with cap := 2, refCap := 1, rng := some 7 } }
    s.Inv ∧ t.Inv ∧ SameView s t := by
  refine ⟨oneByteSession_inv, ?_, rfl⟩
  refine ⟨by decide, ?_, ⟨by decide, rfl⟩, rfl, fun _ => ?_, fun _ _ => ?_, fun _ _ => ?_, trivial⟩
  · unfold StatusOk
    decide
  · unfold Buf.Retains
    decide
  · exact ⟨Parser.start_coherent _, Parser.start_lazy _⟩
  · exact ⟨fresh_sizes.1, fresh_sizes.2.1, fresh_sizes.2.2.1, fresh_sizes.2.2.2, fun hb => Bool.noConfusion hb⟩

end Sys2Proof.Tests
end

section
/-! Proofs about one step: the read call in progress runs the instruction that the decoder reads. -/

namespace Sys2Proof.Machine

/-! ### Raising an error kind (R410, R412) -/

/-- The lower bound of R412, whichever of the two positions is the smaller. -/
theorem min_le_faultIpos (k opStart taken : Nat) : min opStart taken ≤ faultIpos k opStart taken :=
  le_pickBetween _ _ _ (min_le_right _ _)

/-- `raise` of the first error kind is a fault in the sense of R410 and R412, with its whole frame. -/
theorem raise_raised (e : ErrKind) (s : State) (h : s.err = none) : Raised e s (raise e s) := by
  obtain ⟨hphase, herrReg, hpending, -, -, -, hipos⟩ := raise_spec e s h
  have herr : (raise e s).err = some e := by simp [h]
  exact ⟨hphase, herr, herrReg, hpending, min_le_faultIpos _ _ _, hipos, rfl⟩

/-! ### A step that runs a stream operation (R15, R120, R344) -/

/-- While the read call in progress needs more bytes, the step is a stream operation (R344). -/
theorem step_eq_streamStep (s : State) (c : HostCall) (hcall : s.host.call = some c)
    (hmore : s.needsMore s.host.want = true) : step s = streamStep s := by
  simp [step, hcall, hmore]

/-- The stream operation executes the instruction read, past its element (R15). -/
theorem streamStep_of_fetch_ok (s : State) (i : Instr) (p : Parser) (h : fetchElem s = .ok i p) :
    streamStep s = exec i (atElement p s) := by
  simp [streamStep, h]

/-- The stream operation takes the error kind that the reading raises (R410). -/
theorem streamStep_of_fetch_raised (s : State) (e : ErrKind) (p : Parser)
    (h : fetchElem s = .raised e p) : streamStep s = .next (raise e (atElement p s)) := by
  simp [streamStep, h]

/-- Settles O31: the step is the stream operation, which executes what was read or raises its error
kind. -/
theorem stepRunsDecoded : Obligations.StepRunsDecoded := by
  intro s c p hcall hmore
  have hstep : step s = streamStep s := step_eq_streamStep s c hcall hmore
  constructor
  · intro i _ hread
    exact hstep.trans (streamStep_of_fetch_ok s i p hread)
  · intro e hread herr
    exact ⟨raise e (atElement p s), hstep.trans (streamStep_of_fetch_raised s e p hread),
      raise_raised e (atElement p s) herr⟩

end Sys2Proof.Machine
end

section
/-! Proofs about what an instruction does to the session: the frame of every stream operation and of every host
call, and the statements about CFG, the output and the deliveries that follow from the frames. -/

namespace Sys2Proof.Machine

/-! ### Appending any number of bytes (R182) -/

/-- `b'` comes from `b` by appends, one byte at a time. -/
inductive Buf.Appended (cfg : Cfg) (g : GrowthTables) (b : Buf) : Buf → Prop
  | refl : Buf.Appended cfg g b b
  | append {b' : Buf} (k : Nat) (v : Byte) (h : Buf.Appended cfg g b b') :
      Buf.Appended cfg g b (Buf.append cfg g k v b')

variable {cfg : Cfg} {g : GrowthTables} {b b' : Buf}

/-- Appending to `Buf` keeps the retained region readable. -/
theorem Buf_append_retains (k : Nat) (v : Byte) (h : Buf.Retains cfg.wsize b) :
    Buf.Retains cfg.wsize (Buf.append cfg g k v b) :=
  append_retains v { State.reset with
    cfg := cfg, params := { defaultParams with growth := g }, buf := b, free := k } h

/-- Appending to `Buf` keeps the canonical form of the storage. -/
theorem Buf_append_wf (k : Nat) (v : Byte) (h : Memory.wf b.phys = true) :
    Memory.wf (Buf.append cfg g k v b).phys = true :=
  Memory.write_wf _ _ _ (ensureCapacity_wf _ _ _ _ _ h)

/-- Appends only add to the output. -/
theorem Buf.Appended.out_prefix (h : Buf.Appended cfg g b b') : b.out <+: b'.out := by
  induction h with
  | refl => exact List.prefix_rfl
  | append k v _ ih => exact ih.trans (by simp)

/-- Appends deliver nothing. -/
theorem Buf.Appended.drained_eq (h : Buf.Appended cfg g b b') : b'.drained = b.drained := by
  induction h with
  | refl => rfl
  | append k v _ ih => rw [Buf_append_drained, ih]

/-- Appends keep the retained region readable. -/
theorem Buf.Appended.retains (h : Buf.Appended cfg g b b') (hb : Buf.Retains cfg.wsize b) :
    Buf.Retains cfg.wsize b' := by
  induction h with
  | refl => exact hb
  | append k v _ ih => exact Buf_append_retains k v ih

/-- Appends keep the canonical form of the storage. -/
theorem Buf.Appended.phys_wf (h : Buf.Appended cfg g b b') (hb : Memory.wf b.phys = true) :
    Memory.wf b'.phys = true := by
  induction h with
  | refl => exact hb
  | append k v _ ih => exact Buf_append_wf k v ih

/-- One append before any number of appends. -/
theorem Buf.Appended.head (k : Nat) (v : Byte) (h : Buf.Appended cfg g (Buf.append cfg g k v b) b') :
    Buf.Appended cfg g b b' := by
  induction h with
  | refl => exact .append k v .refl
  | append k v _ ih => exact .append k v ih

/-! ### What a stream operation can do -/

variable {s t : State}

/-- `t` is `s` with bytes appended, and nothing else changes. -/
def Appends (s t : State) : Prop :=
  t = { s with buf := t.buf, free := t.free } ∧
    Buf.Appended s.cfg s.params.growth s.buf t.buf

/-- The stream operation completes: bytes are appended, the control registers are rewritten, and the phase is
kept or is one that a stream operation can reach. -/
structure WentOn (s t : State) : Prop where
  frame : t = { s with
    phase := t.phase, reg := t.reg, buf := t.buf, fixedBuilt := t.fixedBuilt, free := t.free }
  appended : Buf.Appended s.cfg s.params.growth s.buf t.buf
  phase : t.phase = s.phase ∨ t.phase = .done ∨ running t.phase = true

/-- The stream operation raises one of the five error kinds of the core; before that it rewrites registers
only. -/
def Faulted (s t : State) : Prop :=
  ∃ e r, errCode e ≤ 5 ∧ t = raise e { s with reg := r }

/-- The loop of `CopyBack` only appends. -/
theorem copyLoop_appends (d : Nat) : ∀ (n : Nat) (s : State), copyLoop d n s = .next t → Appends s t := by
  intro n
  induction n with
  | zero =>
    intro s h
    cases h
    exact ⟨rfl, .refl⟩
  | succ n ih =>
    intro s h
    simp only [copyLoop] at h
    split at h
    · cases h
    · obtain ⟨hf, ha⟩ := ih _ h
      exact ⟨by rw [hf]; rfl, .head _ _ ha⟩

/-- `CopyBack` appends, or a check of the strategy raises. -/
theorem copyBack_cases {l d : Nat} (h : copyBack l d s = .next t) :
    Appends s t ∨ t = raise .invalidBackReference s := by
  unfold copyBack at h
  split at h
  · exact .inl (copyLoop_appends _ _ _ h)
  · exact .inl (copyLoop_appends _ _ _ h)
  · exact .inl (copyLoop_appends _ _ _ h)
  · split at h
    · exact .inl (copyLoop_appends _ _ _ h)
    · cases h
      exact .inr rfl
  · split at h
    · exact .inl (copyLoop_appends _ _ _ h)
    · cases h

/-- The distance part of a match copies, with `DSYM` and `MDIST` recorded, or raises
`InvalidBackReferenceError`; in every state. -/
theorem distancePart_cases {c x : Nat} (h : distancePart c x s = .next t) :
    (∃ ds md, Appends { s with reg := { s.reg with dsym := ds, mdist := md } } t) ∨
      ∃ r, t = raise .invalidBackReference { s with reg := r } := by
  unfold distancePart at h
  split at h
  · cases h
    exact .inr ⟨_, rfl⟩
  · unfold copyFrom at h
    split at h
    · rcases copyBack_cases h with ha | rfl
      · exact .inl ⟨_, _, ha⟩
      · exact .inr ⟨_, rfl⟩
    · cases h
      exact .inr ⟨_, rfl⟩

/-- A match copies, with `SYM`, `MLEN`, `DSYM` and `MDIST` recorded, or raises
`InvalidBackReferenceError`; in every state. -/
theorem matchOp_cases {sym mlen : Nat} {d : DistField} (h : matchOp sym mlen d s = .next t) :
    (∃ sy ml ds md, Appends
        { s with reg := { s.reg with sym := sy, mlen := ml, dsym := ds, mdist := md } } t) ∨
      ∃ r, t = raise .invalidBackReference { s with reg := r } := by
  rcases distancePart_cases h with ⟨ds, md, ha⟩ | ⟨r, rfl⟩
  · exact .inl ⟨_, _, ds, md, ha⟩
  · exact .inr ⟨r, rfl⟩

/-- Appending after registers were rewritten is a way to go on. -/
theorem Appends.wentOn {r : Regs} (h : Appends { s with reg := r } t) : WentOn s t := by
  obtain ⟨hf, ha⟩ := h
  exact ⟨by rw [hf], ha, .inl (by rw [hf])⟩

/-- A rewrite of the control registers and a move to a phase that a stream operation can reach. -/
theorem WentOn.control (ph : Phase) (r : Regs) (fb : Bool)
    (h : ph = s.phase ∨ ph = .done ∨ running ph = true) :
    WentOn s { s with phase := ph, reg := r, fixedBuilt := fb } :=
  ⟨rfl, .refl, h⟩

/-- What a stream operation can do, in every state. -/
def StreamEffect (s t : State) : Prop :=
  WentOn s t ∨ Faulted s t

theorem WentOn.effect (h : WentOn s t) : StreamEffect s t := .inl h

theorem raise_effect (e : ErrKind) (r : Regs) (he : errCode e ≤ 5) :
    StreamEffect s (raise e { s with reg := r }) :=
  .inr ⟨e, r, he, rfl⟩

/-- Rewriting registers in the same phase is a way to go on. -/
theorem reg_effect (r : Regs) : StreamEffect s { s with reg := r } :=
  (WentOn.control s.phase r s.fixedBuilt (.inl rfl)).effect

/-- The end of a block leads to `DONE` or to the next header (R245). -/
theorem endBlock_phase_cases (s : State) : (endBlock s).phase = .done ∨ (endBlock s).phase = .header := by
  rw [endBlock_phase]
  cases s.reg.bfinal
  · exact .inr rfl
  · exact .inl rfl

/-- A phase that ends a block is one that a stream operation can reach. -/
theorem endBlock_reaches (s : State) : (endBlock s).phase = .done ∨ running (endBlock s).phase = true :=
  (endBlock_phase_cases s).imp_right fun h => by rw [h]; rfl

/-- The end of a block, after registers were rewritten. -/
theorem endBlock_effect (r : Regs) : StreamEffect s (endBlock { s with reg := r }) :=
  (WentOn.control _ r s.fixedBuilt (.inr (endBlock_reaches { s with reg := r }))).effect

/-- Moving on to `D_BUILD` after the last code length only rewrites registers. -/
theorem afterLens_effect (r : Regs) : StreamEffect s (afterLens { s with reg := r }) := by
  unfold afterLens
  split
  · exact reg_effect _
  · exact reg_effect _

theorem execBhdr_effect {final : Bool} {type : BitVec 2} (h : execBhdr final type s = .next t) :
    StreamEffect s t := by
  unfold execBhdr at h
  split at h
  · cases h
    exact (WentOn.control .stored _ s.fixedBuilt (.inr (.inr rfl))).effect
  · cases h
    unfold enterFixed buildFixed
    split
    · exact (WentOn.control .fixed _ s.fixedBuilt (.inr (.inr rfl))).effect
    · exact (WentOn.control .fixed _ true (.inr (.inr rfl))).effect
  · cases h
    exact (WentOn.control .dynamic _ s.fixedBuilt (.inr (.inr rfl))).effect
  · cases h
    exact raise_effect _ _ (by decide)

theorem execStoredHdr_effect {len nlen : BitVec 16} (h : execStoredHdr len nlen s = .next t) :
    StreamEffect s t := by
  unfold execStoredHdr at h
  split at h
  · cases h
    unfold startStored
    split
    · exact endBlock_effect _
    · exact reg_effect _
  · cases h
    exact raise_effect _ _ (by decide)

theorem execStoredByte_effect {v : Byte} (h : execStoredByte v s = .next t) : StreamEffect s t := by
  cases h
  have happ : Buf.Appended s.cfg s.params.growth s.buf (append v s).buf := .append _ _ .refl
  refine WentOn.effect ⟨?_, by rwa [countStored_buf], ?_⟩
  · unfold countStored
    split <;> rfl
  · unfold countStored
    split
    · exact .inr (endBlock_reaches _)
    · exact .inl rfl

theorem execDynClbuild_effect (h : execDynClbuild s = .next t) : StreamEffect s t := by
  unfold execDynClbuild at h
  split at h
  · cases h
    exact raise_effect _ s.reg (by decide)
  · cases h
    exact reg_effect _

theorem clLen_effect {v : BitVec 4} (h : clLen v s = .next t) : StreamEffect s t := by
  cases h
  exact afterLens_effect _

/-- A repeat from a `PREV` that `CL.REP16` may have written (R278). -/
theorem repeatLens_effect {r : Nat} {v : BitVec 4} {pv : BitVec 4}
    (h : repeatLens r v { s with reg := { s.reg with prev := pv } } = .next t) : StreamEffect s t := by
  unfold repeatLens at h
  split at h
  · cases h
    exact raise_effect _ _ (by decide)
  · cases h
    exact afterLens_effect _

theorem execClRep16_effect {x : BitVec 2} (h : execClRep16 x s = .next t) : StreamEffect s t := by
  unfold execClRep16 at h
  split at h
  · exact repeatLens_effect (pv := s.reg.prev) h
  · split at h
    · cases h
      exact raise_effect _ s.reg (by decide)
    · exact repeatLens_effect h

theorem zeroLens_effect {r : Nat} (h : zeroLens r s = .next t) : StreamEffect s t := by
  unfold zeroLens at h
  split at h
  · cases h
    exact raise_effect _ s.reg (by decide)
  · cases h
    exact afterLens_effect _

theorem execDynBuild_effect (h : execDynBuild s = .next t) : StreamEffect s t := by
  unfold execDynBuild buildData at h
  split at h
  · cases h
    exact raise_effect _ _ (by decide)
  · split at h
    · cases h
      exact raise_effect _ _ (by decide)
    · cases h
      exact reg_effect _

theorem execLit_effect {v : Byte} (h : execLit v s = .next t) : StreamEffect s t := by
  cases h
  exact WentOn.effect ⟨rfl, .append _ _ .refl, .inl rfl⟩

theorem execEob_effect (h : execEob s = .next t) : StreamEffect s t := by
  cases h
  exact endBlock_effect _

theorem distancePart_effect {c x : Nat} (h : distancePart c x s = .next t) : StreamEffect s t := by
  rcases distancePart_cases h with ⟨ds, md, ha⟩ | ⟨r, rfl⟩
  · exact ha.wentOn.effect
  · exact raise_effect _ _ (by decide)

theorem matchOp_effect {sym mlen : Nat} {d : DistField} (h : matchOp sym mlen d s = .next t) :
    StreamEffect s t := by
  rcases matchOp_cases h with ⟨sy, ml, ds, md, ha⟩ | ⟨r, rfl⟩
  · exact ha.wentOn.effect
  · exact raise_effect _ _ (by decide)

theorem execLlInvalid_effect {n : BitVec 1} (h : execLlInvalid n s = .next t) : StreamEffect s t := by
  cases h
  exact raise_effect _ _ (by decide)

theorem symbolOp_effect {sym x : Nat} {d : DistField} (h : symbolOp sym x d s = .next t) :
    StreamEffect s t := by
  unfold symbolOp at h
  split at h
  · exact execEob_effect h
  · split at h
    · exact matchOp_effect h
    · exact execLlInvalid_effect h

/-- The rows that are host calls (R120). -/
def callRow : Instr → Bool
  | .construct _ _ => true
  | .read => true
  | .readbuf _ => true
  | .close => true
  | _ => false

/-- Every stream operation completes or raises an error kind of the core, in every state: nothing else of the
session changes. -/
theorem exec_effect {i : Instr} (hi : callRow i = false) (h : exec i s = .next t) : StreamEffect s t := by
  cases i with
  | bhdr f ty => exact execBhdr_effect h
  | blkStored f => exact execBhdr_effect (type := 0) h
  | blkFixed f => exact execBhdr_effect (type := 1) h
  | blkDynamic f => exact execBhdr_effect (type := 2) h
  | blkReserved f => exact execBhdr_effect (type := 3) h
  | storedHdr len nlen => exact execStoredHdr_effect h
  | storedByte v => exact execStoredByte_effect h
  | dynCounts hlit hdist hclen => cases h; exact reg_effect _
  | dynCllen len => cases h; exact reg_effect _
  | dynClbuild => exact execDynClbuild_effect h
  | clLen0 | clLen1 | clLen2 | clLen3 | clLen4 | clLen5 | clLen6 | clLen7 | clLen8 | clLen9 | clLen10
  | clLen11 | clLen12 | clLen13 | clLen14 | clLen15 => exact clLen_effect h
  | clRep16 x => exact execClRep16_effect h
  | clZrep17 x | clZrep18 x => exact zeroLens_effect h
  | dynBuild => exact execDynBuild_effect h
  | lit v | fixedLl0To143 v | fixedLl144To255 v => exact execLit_effect h
  | eob => exact execEob_effect h
  | matchL257 d | matchL258 d | matchL259 d | matchL260 d | matchL261 d | matchL262 d | matchL263 d
  | matchL264 d | matchL285 d => exact matchOp_effect h
  | matchL265 x d | matchL266 x d | matchL267 x d | matchL268 x d | matchL269 x d | matchL270 x d
  | matchL271 x d | matchL272 x d | matchL273 x d | matchL274 x d | matchL275 x d | matchL276 x d
  | matchL277 x d | matchL278 x d | matchL279 x d | matchL280 x d | matchL281 x d | matchL282 x d
  | matchL283 x d | matchL284 x d | matchL285D64 x d => exact matchOp_effect h
  | llInvalid n => exact execLlInvalid_effect h
  | dist0 | dist1 | dist2 | dist3 => exact distancePart_effect h
  | dist4 x | dist5 x | dist6 x | dist7 x | dist8 x | dist9 x | dist10 x | dist11 x | dist12 x | dist13 x
  | dist14 x | dist15 x | dist16 x | dist17 x | dist18 x | dist19 x | dist20 x | dist21 x | dist22 x
  | dist23 x | dist24 x | dist25 x | dist26 x | dist27 x | dist28 x | dist29 x | dist30D64 x
  | dist31D64 x | fixedD0To31 x => exact distancePart_effect h
  | distInvalid n => cases h; exact raise_effect _ _ (by decide)
  | fixedLl256To279 n x d | fixedLl280To287 n x d => exact symbolOp_effect h
  | construct cfg source => cases hi
  | read => cases hi
  | readbuf n => cases hi
  | close => cases hi

/-! ### What a read call can do (R342 to R348) -/

/-- The outcomes of a read call once it is in progress: it waits, or it is answered. -/
inductive ReadOutcome (s : State) : State → Prop
  | waits : ReadOutcome s s
  | eos (h : s.phase = .done) : ReadOutcome s (reportEos s)
  | error (e : ErrKind) (h : s.err = some e) :
      ReadOutcome s (respond (.error e) { s with errPending := false })
  | byte (b : Byte) (h : Buf.undelivered 1 s.buf = [b]) : ReadOutcome s (deliverByte b s)
  | count (k free : Nat) (h : k ≤ s.atHand) : ReadOutcome s (deliver k { s with free := free })

theorem reportError_outcome (s : State) : ReadOutcome s (reportError s) := by
  unfold reportError
  split
  · exact .error _ (by assumption)
  · exact .waits

theorem finishEmpty_outcome (s : State) : ReadOutcome s (finishEmpty s) := by
  unfold finishEmpty
  split
  · exact .eos (by assumption)
  · exact reportError_outcome s
  all_goals exact .waits

theorem finishRead_outcome (s : State) : ReadOutcome s (finishRead s) := by
  unfold finishRead
  split
  · exact reportError_outcome s
  · split
    · next b rest hb =>
      have hlen : (Buf.undelivered 1 s.buf).length ≤ 1 := List.length_take_le _ _
      rw [hb] at hlen
      obtain rfl : rest = [] := List.eq_nil_of_length_eq_zero (by simpa using hlen)
      exact .byte b hb
    · exact finishEmpty_outcome s

theorem finishReadbuf_outcome (n : Nat) (s : State) : ReadOutcome s (finishReadbuf n s) := by
  have hcount : ∀ a, readCount s n a ≤ a := by
    intro a
    unfold readCount
    split
    · exact min_le_right _ _
    · exact (pickBetween_le _ _ _).trans (min_le_right _ _)
  unfold finishReadbuf
  split
  · exact reportError_outcome s
  · split
    · exact .count _ _ (hcount _)
    · exact finishEmpty_outcome s

/-- `READ` in an open session: the call is begun, if none is in progress, and has an outcome. -/
theorem execRead_cases (h : execRead s = .next t) :
    s.phase ≠ .closed ∧ ReadOutcome (beginCall .read 1 s) t := by
  unfold execRead at h
  split at h
  · cases h
  · next hp =>
    refine ⟨hp, ?_⟩
    dsimp only at h
    split at h
    · cases h
      exact .waits
    · cases h
      exact finishRead_outcome _

/-- `READBUF(n)` in an open session: `n = 0` delivers nothing at once; else the call is begun, if none is in
progress, and has an outcome. -/
theorem execReadbuf_cases {n : Nat} (h : execReadbuf n s = .next t) :
    s.phase ≠ .closed ∧ (t = deliver 0 s ∨ 1 ≤ n ∧
      ReadOutcome { beginCall (.readbuf n) (readWant s n) s with free := s.free + 1 } t) := by
  unfold execReadbuf at h
  split at h
  · cases h
  · next hp =>
    refine ⟨hp, ?_⟩
    split at h
    · cases h
      exact .inl rfl
    · next hn =>
      refine .inr ⟨Nat.one_le_iff_ne_zero.mpr hn, ?_⟩
      dsimp only at h
      split at h
      · cases h
        exact .waits
      · cases h
        exact finishReadbuf_outcome _ _

/-- What an outcome of a read call leaves: all but the status flags, the progress of delivery, the host port
and the free-value counter. -/
theorem ReadOutcome.frame (h : ReadOutcome s t) :
    t = { s with
      errPending := t.errPending, eosSignalled := t.eosSignalled
      buf := { s.buf with drained := t.buf.drained }, host := t.host, free := t.free } := by
  cases h <;> rfl

/-- A read call delivers what is at hand and no more. -/
theorem ReadOutcome.drained_bounds (h : ReadOutcome s t) (hd : s.buf.drained ≤ Buf.total s.buf) :
    s.buf.drained ≤ t.buf.drained ∧ t.buf.drained ≤ Buf.total s.buf := by
  cases h with
  | waits | eos | error => exact ⟨le_rfl, hd⟩
  | byte b hb =>
    have hlen : 1 ≤ s.buf.out.length - s.buf.drained := by
      have := congrArg List.length hb
      simp only [Buf.undelivered, List.length_take, List.length_drop, List.length_singleton] at this
      omega
    refine ⟨Nat.le_succ _, ?_⟩
    show s.buf.drained + 1 ≤ s.buf.out.length
    omega
  | count k free hk =>
    refine ⟨Nat.le_add_right _ _, ?_⟩
    show s.buf.drained + k ≤ _
    unfold State.atHand Buf.atHand at hk
    omega

end Sys2Proof.Machine
end

section
/-! Proofs about what the host is promised and given within a session: `SessionPromises` and
`StepKeepsDelivery`, from the frames of the instructions. -/

namespace Sys2Proof.Machine

variable {s t : State}

/-- While the engine runs the session has neither failed nor been closed (R25, R240). -/
theorem running_open {ph : Phase} (h : running ph = true) : ph ≠ .failed ∧ ph ≠ .closed := by
  cases ph <;> simp_all [running]

/-! ### Within a session (R21, R28, R46, R47, R411) -/

/-- What stays within a session, from `s` to `t`. -/
def Promised (s t : State) : Prop :=
  t.cfg = s.cfg ∧ t.params = s.params ∧ (s.err ≠ none → t.err = s.err) ∧
    (t.phase ≠ .closed → s.buf.out <+: t.buf.out ∧ s.buf.drained ≤ t.buf.drained)

theorem WentOn.promised (h : WentOn s t) : Promised s t := by
  obtain ⟨hf, ha, -⟩ := h
  have hd := ha.drained_eq
  exact ⟨by rw [hf], by rw [hf], fun _ => by rw [hf], fun _ => ⟨ha.out_prefix, hd.ge⟩⟩

theorem Faulted.promised (h : Faulted s t) : Promised s t := by
  obtain ⟨e, r, -, rfl⟩ := h
  refine ⟨rfl, rfl, fun he => ?_, fun _ => ⟨List.prefix_rfl, le_rfl⟩⟩
  obtain ⟨e0, he0⟩ := Option.ne_none_iff_exists'.mp he
  simp [he0]

theorem StreamEffect.promised (h : StreamEffect s t) : Promised s t :=
  h.elim WentOn.promised Faulted.promised

theorem ReadOutcome.promised (h : ReadOutcome s t) : Promised s t := by
  have hd : s.buf.drained ≤ t.buf.drained := by
    cases h with
    | waits | eos | error => exact le_rfl
    | byte => exact Nat.le_succ _
    | count => exact Nat.le_add_right _ _
  have hf := h.frame
  exact ⟨by rw [hf], by rw [hf], fun _ => by rw [hf], fun _ => ⟨by rw [hf], hd⟩⟩

/-- Beginning a call changes no promise. -/
theorem Promised.of_beginCall {c : HostCall} {want free : Nat}
    (h : Promised { beginCall c want s with free := free } t) : Promised s t := by
  simpa only [Promised, beginCall_cfg, beginCall_params, beginCall_err, beginCall_buf] using h

/-- `CLOSE` leaves `CFG` and `ERR` (R350). -/
theorem execClose_promised (h : execClose s = .next t) : Promised s t := by
  unfold execClose at h
  split at h
  · cases h
    exact ⟨rfl, rfl, fun _ => rfl, fun _ => ⟨List.prefix_rfl, le_rfl⟩⟩
  · cases h
    exact ⟨rfl, rfl, fun _ => rfl, fun hp => absurd rfl hp⟩

/-- Settles O55: a stream operation by its frame, a host call by its outcomes. -/
theorem sessionPromises : Obligations.SessionPromises := by
  intro i s t hcon h
  show Promised s t
  rcases hi : callRow i
  · exact (exec_effect hi h).promised
  · cases i with
    | construct cfg source => exact absurd rfl (hcon cfg source)
    | read => exact ((execRead_cases h).2.promised).of_beginCall
    | readbuf n =>
      rcases (execReadbuf_cases h).2 with rfl | ⟨-, ho⟩
      · exact ⟨rfl, rfl, fun _ => rfl, fun _ => ⟨List.prefix_rfl, le_rfl⟩⟩
      · exact ho.promised.of_beginCall
    | close => exact execClose_promised h
    | _ => cases hi

/-! ### What the host has been given (R47, R72, R342, R343, R475) -/

@[simp] theorem deliveredBytes_byte (rs : List Response) (b : Byte) :
    deliveredBytes (rs ++ [.byte b]) = deliveredBytes rs ++ [b] := by simp [deliveredBytes]

@[simp] theorem deliveredBytes_count (rs : List Response) (bs : List Byte) :
    deliveredBytes (rs ++ [.count bs]) = deliveredBytes rs ++ bs := by simp [deliveredBytes]

@[simp] theorem deliveredBytes_eos (rs : List Response) :
    deliveredBytes (rs ++ [.eos]) = deliveredBytes rs := by simp [deliveredBytes]

@[simp] theorem deliveredBytes_error (rs : List Response) (e : ErrKind) :
    deliveredBytes (rs ++ [.error e]) = deliveredBytes rs := by simp [deliveredBytes]

@[simp] theorem deliveredBytes_closed (rs : List Response) :
    deliveredBytes (rs ++ [.closed]) = deliveredBytes rs := by simp [deliveredBytes]

@[simp] theorem deliveredBytes_constructed (rs : List Response) :
    deliveredBytes (rs ++ [.constructed]) = [] := by simp [deliveredBytes]

@[simp] theorem deliveredBytes_refusedConfig (rs : List Response) :
    deliveredBytes (rs ++ [.refusedConfig]) = deliveredBytes rs := by simp [deliveredBytes]

/-- A response with no byte leaves what has been delivered. -/
theorem respond_delivered (r : Response) (h : DeliveredOk s)
    (hr : deliveredBytes (s.host.responses ++ [r]) = deliveredBytes s.host.responses) :
    DeliveredOk (respond r s) :=
  fun hp => hr.trans (h hp)

/-- The next `k` bytes as a response: what has been delivered is as long as `DRAINED` says. -/
theorem deliver_delivered (k : Nat) (h : DeliveredOk s) : DeliveredOk (deliver k s) := by
  intro hp
  show deliveredBytes (s.host.responses ++ [.count (Buf.undelivered k s.buf)]) =
    s.buf.out.take (s.buf.drained + k)
  rw [deliveredBytes_count, List.take_add]
  exact congrArg (· ++ _) (h hp)

/-- The next byte as a response delivers what the count of one byte does. -/
theorem deliverByte_delivered (b : Byte) (hb : Buf.undelivered 1 s.buf = [b]) (h : DeliveredOk s) :
    DeliveredOk (deliverByte b s) := by
  intro hp
  have := deliver_delivered 1 h hp
  change deliveredBytes (s.host.responses ++ [.count (Buf.undelivered 1 s.buf)]) =
    s.buf.out.take (s.buf.drained + 1) at this
  rw [deliveredBytes_count, hb] at this
  exact (deliveredBytes_byte _ _).trans this

theorem ReadOutcome.delivered (h : ReadOutcome s t) (hs : DeliveredOk s) : DeliveredOk t := by
  cases h with
  | waits => exact hs
  | eos => exact respond_delivered .eos hs (deliveredBytes_eos _)
  | error e => exact respond_delivered (.error e) hs (deliveredBytes_error _ e)
  | byte b hb => exact deliverByte_delivered b hb hs
  | count k free => exact deliver_delivered (s := { s with free := free }) k hs

/-- Beginning a call delivers nothing. -/
theorem beginCall_delivered (c : HostCall) (want free : Nat) (h : DeliveredOk s) :
    DeliveredOk { beginCall c want s with free := free } := by
  unfold beginCall
  split <;> exact h

/-- A host call keeps what has been delivered the beginning of the output. -/
theorem call_delivered (c : HostCall) (hs : DeliveredOk s) (h : exec (callInstr c) s = .next t) :
    DeliveredOk t := by
  cases c with
  | construct raw source =>
    change execConstruct raw source s = _ at h
    unfold execConstruct at h
    split at h
    · cases h
      exact respond_delivered .refusedConfig hs (deliveredBytes_refusedConfig _)
    · cases h
      exact fun _ => deliveredBytes_constructed _
  | read => exact (execRead_cases h).2.delivered (beginCall_delivered .read 1 s.free hs)
  | readbuf n =>
    rcases (execReadbuf_cases h).2 with rfl | ⟨-, ho⟩
    · exact deliver_delivered 0 hs
    · exact ho.delivered (beginCall_delivered _ _ _ hs)
  | close =>
    change execClose s = _ at h
    unfold execClose at h
    split at h
    · cases h
      exact respond_delivered .closed hs (deliveredBytes_closed _)
    · cases h
      exact fun hp => absurd rfl hp

/-- A stream operation delivers nothing, and the bytes delivered stay the beginning of the output. -/
theorem StreamEffect.delivered (h : StreamEffect s t) (hrun : running s.phase = true)
    (hd : s.buf.drained ≤ Buf.total s.buf) (hs : DeliveredOk s) : DeliveredOk t := by
  have hgiven := hs (running_open hrun).2
  intro _
  rcases h with ⟨hf, ha, -⟩ | ⟨e, r, -, rfl⟩
  · have hhost : t.host = s.host := by rw [hf]
    obtain ⟨more, hmore⟩ := ha.out_prefix
    rw [hhost, hgiven, ha.drained_eq, ← hmore, List.take_append_of_le_length hd]
  · exact hgiven

/-- While the call in progress needs more bytes, the engine runs (R344). -/
theorem running_of_needsMore {want : Nat} (h : s.needsMore want = true) : running s.phase = true :=
  (Bool.and_eq_true_iff.mp h).2

end Sys2Proof.Machine
end

section
/-! Proofs about the canonical code: the number of each codeword, the Kraft inequality of an array that passes
the health check, and that no codeword begins another; then the entries of a lookup table. -/

namespace Sys2Proof.Machine

/-! ### The number of a codeword (R132) -/

theorem le_foldl_max (ls : List Nat) (a : Nat) : a ≤ ls.foldl max a ∧ ∀ x ∈ ls, x ≤ ls.foldl max a := by
  induction ls generalizing a with
  | nil => simp
  | cons y ys ih =>
    obtain ⟨hinit, hmem⟩ := ih (max a y)
    refine ⟨(le_max_left a y).trans hinit, fun x hx => ?_⟩
    rcases List.mem_cons.mp hx with rfl | hx
    · exact (le_max_right a x).trans hinit
    · exact hmem x hx

/-- The longest length bounds every length. -/
theorem le_maxLen {lens : List Nat} {l : Nat} (h : l ∈ lens) : l ≤ maxLen lens :=
  (le_foldl_max lens 0).2 l h

/-- The assignment loop: a used symbol takes the next codeword of its length, after the earlier symbols of
that length. -/
theorem assignCodes_getElem? (lens : List Nat) :
    ∀ (next : List Nat), (∀ l ∈ lens, l < next.length) → ∀ (s len : Nat), lens[s]? = some len →
      (assignCodes lens next)[s]? =
        some (if len = 0 then none else some (next.getD len 0 + (lens.take s).count len)) := by
  induction lens with
  | nil => simp
  | cons l rest ih =>
    intro next hn s len hs
    have hrest : ∀ x ∈ rest, x < next.length := fun x hx => hn x (List.mem_cons_of_mem _ hx)
    have hl : l < next.length := hn l List.mem_cons_self
    cases l with
    | zero =>
      cases s with
      | zero =>
        obtain rfl : 0 = len := by simpa using hs
        simp [assignCodes]
      | succ s =>
        rw [assignCodes, List.getElem?_cons_succ, ih next hrest s len (by simpa using hs)]
        by_cases hz : len = 0
        · simp [hz]
        · simp [hz, Ne.symm hz]
    | succ l =>
      cases s with
      | zero =>
        obtain rfl : l + 1 = len := by simpa using hs
        simp [assignCodes]
      | succ s =>
        have hrest' : ∀ x ∈ rest, x < (next.set (l + 1) (next.getD (l + 1) 0 + 1)).length := by
          simpa using hrest
        have hstep : assignCodes ((l + 1) :: rest) next = some (next.getD (l + 1) 0) ::
            assignCodes rest (next.set (l + 1) (next.getD (l + 1) 0 + 1)) := rfl
        rw [hstep, List.getElem?_cons_succ, ih _ hrest' s len (by simpa using hs)]
        by_cases hz : len = 0
        · simp [hz]
        · by_cases he : l + 1 = len
          · subst he
            simp [List.getD_eq_getElem?_getD, hl, Nat.add_assoc, Nat.add_comm 1]
          · simp [hz, List.getD_eq_getElem?_getD, he]

/-- `canonicalConstruct` (R132): the first codeword of the symbol's length, plus the number of earlier symbols
of that length. -/
theorem canonicalConstruct_getElem? {lens : List Nat} {s len : Nat} (h : lens[s]? = some len) :
    (canonicalConstruct lens)[s]? =
      some (if len = 0 then none else some (firstCode lens len + (lens.take s).count len)) := by
  have hnext : ∀ l ∈ lens, l < (firstCodes lens (maxLen lens)).length := fun l hl => by
    simpa [firstCodes, Nat.lt_succ_iff] using le_maxLen hl
  have hlen : len < maxLen lens + 1 := Nat.lt_succ_of_le (le_maxLen (List.mem_of_getElem? h))
  rw [canonicalConstruct, assignCodes_getElem? lens _ hnext s len h]
  simp [firstCodes, List.getD_eq_getElem?_getD, hlen]

/-- A triple of a code is a used symbol with its length and its codeword (R150). -/
theorem mem_codeTriples {lens : List Nat} {t : Triple} (h : t ∈ codeTriples lens) :
    lens[t.symbol]? = some t.len ∧ t.len ≠ 0 ∧
      t.cw = firstCode lens t.len + (lens.take t.symbol).count t.len := by
  obtain ⟨⟨⟨len, cw⟩, s⟩, hmem, ht⟩ := List.mem_filterMap.mp h
  obtain ⟨hl, hc⟩ := List.getElem?_zip_eq_some.mp (List.mem_zipIdx_iff_getElem?.mp hmem)
  rw [canonicalConstruct_getElem? hl, Option.some.injEq] at hc
  dsimp only at hl hc ht
  rw [← hc] at ht
  split at ht
  · cases ht
  · next hz =>
    cases ht
    exact ⟨hl, hz, rfl⟩

/-! ### The Kraft inequality (R138) -/

theorem kraftSum_cons (l : Nat) (lens : List Nat) (m : Nat) :
    kraftSum (l :: lens) m = (if l = 0 then 0 else 2 ^ (m - l)) + kraftSum lens m := by
  simp [kraftSum]

/-- Unused symbols weigh nothing. -/
theorem kraftSum_filter_zero (lens : List Nat) (m : Nat) : kraftSum (lens.filter (· ≤ 0)) m = 0 := by
  induction lens with
  | nil => rfl
  | cons l rest ih =>
    by_cases hl : l = 0
    · simpa [hl, kraftSum_cons] using ih
    · simpa [hl] using ih

/-- One length more in the sum: its symbols, each with its weight. -/
theorem kraftSum_filter_succ (lens : List Nat) (m b : Nat) :
    kraftSum (lens.filter (· ≤ b + 1)) m =
      kraftSum (lens.filter (· ≤ b)) m + lens.count (b + 1) * 2 ^ (m - (b + 1)) := by
  induction lens with
  | nil => simp [kraftSum]
  | cons l rest ih =>
    rcases lt_trichotomy l (b + 1) with hl | rfl | hl
    · have h1 : l ≤ b + 1 := hl.le
      have h2 : l ≤ b := Nat.lt_succ_iff.mp hl
      simp [h1, h2, kraftSum_cons, ih, hl.ne]
      omega
    · simp [kraftSum_cons, ih, Nat.add_mul]
      omega
    · have h1 : ¬l ≤ b + 1 := hl.not_ge
      have h2 : ¬l ≤ b := fun h => h1 (Nat.le_succ_of_le h)
      simp [h1, h2, ih, hl.ne']

/-- The codewords of at most `b` bits, as leaves of depth `m`: as many as their part of the Kraft sum. -/
theorem firstCode_mul_two_pow (lens : List Nat) (m : Nat) : ∀ b ≤ m,
    (firstCode lens b + lengthCount lens b) * 2 ^ (m - b) = kraftSum (lens.filter (· ≤ b)) m := by
  intro b
  induction b with
  | zero =>
    intro _
    simpa [firstCode, lengthCount] using (kraftSum_filter_zero lens m).symm
  | succ b ih =>
    intro hb
    have hpow : 2 ^ (m - b) = 2 * 2 ^ (m - (b + 1)) := by
      rw [← pow_succ']
      congr 1
      omega
    have hcount : lengthCount lens (b + 1) = lens.count (b + 1) := by
      simp [lengthCount, List.count]
    rw [kraftSum_filter_succ, ← ih (by omega), hcount, firstCode, hpow]
    ring

/-- The Kraft sum of part of an array. -/
theorem kraftSum_filter_le (lens : List Nat) (p : Nat → Bool) (m : Nat) :
    kraftSum (lens.filter p) m ≤ kraftSum lens m :=
  (List.filter_sublist.map _).sum_le_sum (by simp)

/-- The Kraft sum is at most one full weight for each used symbol. -/
theorem kraftSum_le_usedCount (lens : List Nat) (m : Nat) : kraftSum lens m ≤ usedCount lens * 2 ^ m := by
  induction lens with
  | nil => simp [kraftSum]
  | cons l rest ih =>
    by_cases hl : l = 0
    · simpa [hl, kraftSum_cons, usedCount] using ih
    · have hle : 2 ^ (m - l) ≤ 2 ^ m := Nat.pow_le_pow_right (by omega) (Nat.sub_le m l)
      have hu : usedCount (l :: rest) = usedCount rest + 1 := by simp [usedCount, hl]
      rw [kraftSum_cons, hu, Nat.add_mul, if_neg hl]
      omega

/-- An array that passes the health check meets the Kraft inequality (R138, R139). -/
theorem kraftSum_le_of_healthy {e : EmptyDistCode} {which : Which} {lens : List Nat} {maxl : Nat} {k : Kind}
    (h : checkHealth e which lens maxl = some k) : kraftSum lens maxl ≤ 2 ^ maxl := by
  have hle := kraftSum_le_usedCount lens maxl
  unfold checkHealth at h
  split at h
  · next hu => simpa [hu] using hle.trans (by simp [hu])
  · split at h
    · next hk => exact hk.le
    · split at h
      · next hu => simpa [hu.1] using hle
      · cases h

/-! ### No codeword begins another (R131, R133) -/

/-- Of the symbols of one length, an earlier one is counted before a later one. -/
theorem count_take_lt {lens : List Nat} {s n len : Nat} (h : lens[s]? = some len) (hn : s < n) :
    (lens.take s).count len < (lens.take n).count len := by
  have hsucc : (lens.take (s + 1)).count len = (lens.take s).count len + 1 := by
    simp [List.take_add_one, h]
  have := (List.take_sublist_take_left (l := lens) (show s + 1 ≤ n from hn)).count_le len
  omega

/-- The codeword of a used symbol comes before the codewords of its length end. -/
theorem codeTriple_lt {lens : List Nat} {t : Triple} (h : t ∈ codeTriples lens) :
    t.cw < firstCode lens t.len + lengthCount lens t.len := by
  obtain ⟨hl, hz, hc⟩ := mem_codeTriples h
  have hs : t.symbol < lens.length := (List.getElem?_eq_some_iff.mp hl).1
  have := count_take_lt hl hs
  rw [List.take_length] at this
  have hcount : lengthCount lens t.len = lens.count t.len := by simp [lengthCount, hz, List.count]
  omega

/-- A code that meets the Kraft inequality has codewords that fit their lengths. -/
theorem codeTriple_lt_two_pow {lens : List Nat} {maxl : Nat} {t : Triple} (hl : ∀ l ∈ lens, l ≤ maxl)
    (hk : kraftSum lens maxl ≤ 2 ^ maxl) (h : t ∈ codeTriples lens) : t.cw < 2 ^ t.len := by
  have hle : t.len ≤ maxl := hl _ (List.mem_of_getElem? (mem_codeTriples h).1)
  have hsum := firstCode_mul_two_pow lens maxl t.len hle
  have hbound := (kraftSum_filter_le lens (· ≤ t.len) maxl).trans hk
  have hpow : 2 ^ maxl = 2 ^ t.len * 2 ^ (maxl - t.len) := by rw [← pow_add]; congr 1; omega
  rw [← hsum, hpow] at hbound
  exact (codeTriple_lt h).trans_le (Nat.le_of_mul_le_mul_right hbound (Nat.two_pow_pos _))

/-- The codewords of length `b`, each followed by every `k + 1` bits, come before the first codeword of length
`b + k + 1`. -/
theorem firstCode_add (lens : List Nat) (b k : Nat) :
    (firstCode lens b + lengthCount lens b) * 2 ^ (k + 1) ≤ firstCode lens (b + k + 1) := by
  induction k with
  | zero => simp [firstCode]
  | succ k ih =>
    calc (firstCode lens b + lengthCount lens b) * 2 ^ (k + 1 + 1)
        = (firstCode lens b + lengthCount lens b) * 2 ^ (k + 1) * 2 := by ring
      _ ≤ (firstCode lens (b + k + 1) + lengthCount lens (b + k + 1)) * 2 := by omega

/-- The last bits of a field hold the number without its low bits. -/
theorem fieldBits_drop (k n v : Nat) : (fieldBits (k + n) v).drop k = fieldBits n (v / 2 ^ k) := by
  induction k generalizing v with
  | zero => simp
  | succ k ih =>
    rw [Nat.add_right_comm, fieldBits, List.drop_succ_cons, ih, Nat.div_div_eq_div_mul, pow_succ,
      Nat.mul_comm (2 ^ k)]

/-- The first bits of a codeword hold its number without its low bits. -/
theorem codeBits_take (k n v : Nat) : (codeBits (k + n) v).take n = codeBits n (v / 2 ^ k) := by
  have h := fieldBits_drop k n v
  rw [codeBits, codeBits, ← h, List.take_reverse, length_fieldBits, Nat.add_sub_cancel]

/-- Two numbers that fit `n` bits and have the same codeword bits are the same. -/
theorem codeBits_inj {n v v' : Nat} (hv : v < 2 ^ n) (hv' : v' < 2 ^ n)
    (h : codeBits n v = codeBits n v') : v = v' := by
  have := congrArg codeValue h
  rwa [codeValue_codeBits, codeValue_codeBits, Nat.mod_eq_of_lt hv, Nat.mod_eq_of_lt hv'] at this

/-- In a code that meets the Kraft inequality no codeword begins the codeword of another symbol. -/
theorem codeTriples_prefix_free {lens : List Nat} {maxl : Nat} {t t' : Triple} (hl : ∀ l ∈ lens, l ≤ maxl)
    (hk : kraftSum lens maxl ≤ 2 ^ maxl) (ht : t ∈ codeTriples lens) (ht' : t' ∈ codeTriples lens)
    (hne : t.symbol ≠ t'.symbol) : ¬codeBits t.len t.cw <+: codeBits t'.len t'.cw := by
  intro hpre
  obtain ⟨k, hlen⟩ : ∃ k, t'.len = k + t.len :=
    Nat.exists_eq_add_of_le' (by simpa using hpre.length_le)
  have hlt := codeTriple_lt_two_pow hl hk ht
  have hlt' := codeTriple_lt_two_pow hl hk ht'
  have htake := List.prefix_iff_eq_take.mp hpre
  rw [length_codeBits, hlen, codeBits_take] at htake
  have hdiv : t'.cw / 2 ^ k < 2 ^ t.len :=
    Nat.div_lt_of_lt_mul (by rwa [← pow_add, ← hlen])
  have hcw : t.cw = t'.cw / 2 ^ k := codeBits_inj hlt hdiv htake
  obtain ⟨hs, -, hc⟩ := mem_codeTriples ht
  obtain ⟨hs', -, hc'⟩ := mem_codeTriples ht'
  cases k with
  | zero =>
    rw [hlen, Nat.zero_add] at hs' hc'
    rw [pow_zero, Nat.div_one] at hcw
    rcases Nat.lt_or_gt_of_ne hne with hlt | hlt
    · have := count_take_lt hs hlt
      omega
    · have := count_take_lt hs' hlt
      omega
  | succ k =>
    have hfirst := firstCode_add lens t.len k
    rw [show t.len + k + 1 = t'.len by omega] at hfirst
    have hbefore : (t.cw + 1) * 2 ^ (k + 1) ≤ t'.cw :=
      calc (t.cw + 1) * 2 ^ (k + 1)
          ≤ (firstCode lens t.len + lengthCount lens t.len) * 2 ^ (k + 1) :=
            Nat.mul_le_mul_right _ (codeTriple_lt ht)
        _ ≤ t'.cw := by omega
    have := (Nat.le_div_iff_mul_le (Nat.two_pow_pos (k + 1))).mpr hbefore
    omega

/-! ### The entries of a lookup table (R163) -/

/-- The number of the first bits of a field. -/
theorem bitsToNat_take (w : Bits) (n : Nat) : bitsToNat (w.take n) = bitsToNat w % 2 ^ n := by
  induction n generalizing w with
  | zero => simp [bitsToNat, Nat.mod_one]
  | succ n ih =>
    cases w with
    | nil => simp [bitsToNat]
    | cons b rest =>
      have hlow : (b.toNat + 2 * bitsToNat rest) % 2 = b.toNat := by cases b <;> simp
      have hhigh : (b.toNat + 2 * bitsToNat rest) / 2 = bitsToNat rest := by cases b <;> simp; omega
      rw [List.take_succ_cons, bitsToNat, ih, bitsToNat, pow_succ', Nat.mod_mul, hlow, hhigh]

/-- The index `i` begins with the codeword of `t`, first stream bit in bit 0 (R163). -/
def Triple.Hits (t : Triple) (i : Nat) : Prop :=
  i % 2 ^ t.len = bitsToNat (codeBits t.len t.cw)


/-- Of two codewords that an index begins with, the shorter begins the longer. -/
theorem Triple.Hits.codeBits_prefix {i : Nat} {t t' : Triple} (h : t.Hits i) (h' : t'.Hits i)
    (hle : t.len ≤ t'.len) : codeBits t.len t.cw <+: codeBits t'.len t'.cw := by
  have hnum : bitsToNat ((codeBits t'.len t'.cw).take t.len) = bitsToNat (codeBits t.len t.cw) := by
    rw [bitsToNat_take, ← h', ← h, Nat.mod_mod_of_dvd _ (pow_dvd_pow 2 hle)]
  have hlen : ((codeBits t'.len t'.cw).take t.len).length = (codeBits t.len t.cw).length := by
    simpa using hle
  have hbits : (codeBits t'.len t'.cw).take t.len = codeBits t.len t.cw := by
    rw [← fieldBits_bitsToNat ((codeBits t'.len t'.cw).take t.len), hnum, hlen, fieldBits_bitsToNat]
  rw [← hbits]
  exact List.take_prefix _ _

/-- An index begins with at most one codeword of a code that meets the Kraft inequality. -/
theorem Triple.Hits.symbol_eq {lens : List Nat} {maxl i : Nat} {t t' : Triple} (hl : ∀ l ∈ lens, l ≤ maxl)
    (hk : kraftSum lens maxl ≤ 2 ^ maxl) (ht : t ∈ codeTriples lens) (ht' : t' ∈ codeTriples lens)
    (h : t.Hits i) (h' : t'.Hits i) : t.symbol = t'.symbol := by
  by_contra hne
  rcases le_total t.len t'.len with hle | hle
  · exact codeTriples_prefix_free hl hk ht ht' hne (h.codeBits_prefix h' hle)
  · exact codeTriples_prefix_free hl hk ht' ht (Ne.symm hne) (h'.codeBits_prefix h hle)

/-- Writing one value at the indices `f 0` to `f (n - 1)`. -/
theorem foldl_set_getElem? {α : Type} (f : Nat → Nat) (v : α) (l : List α) (n i : Nat) :
    ((List.range n).foldl (fun l j => l.set (f j) v) l)[i]? =
      if ∃ j < n, f j = i then l[i]?.map (fun _ => v) else l[i]? := by
  induction n with
  | zero => simp
  | succ n ih =>
    rw [List.range_succ, List.foldl_append, List.foldl_cons, List.foldl_nil, List.getElem?_set']
    by_cases hn : f n = i
    · have : ∃ j < n + 1, f j = i := ⟨n, Nat.lt_succ_self n, hn⟩
      rw [if_pos hn, if_pos this, ih]
      split
      · simp [Function.comp_def]
      · rfl
    · have hiff : (∃ j < n + 1, f j = i) ↔ ∃ j < n, f j = i := by
        refine ⟨fun ⟨j, hj, hf⟩ => ⟨j, ?_, hf⟩, fun ⟨j, hj, hf⟩ => ⟨j, Nat.lt_succ_of_lt hj, hf⟩⟩
        rcases Nat.lt_succ_iff_lt_or_eq.mp hj with hj | rfl
        · exact hj
        · exact absurd hf hn
      rw [if_neg hn, ih]
      simp only [hiff]

/-- Writing values changes no length. -/
theorem length_foldl_set {α ι : Type} (f : ι → Nat) (v : α) (l : List α) (is : List ι) :
    (is.foldl (fun l j => l.set (f j) v) l).length = l.length := by
  induction is generalizing l with
  | nil => rfl
  | cons i is ih => simp [ih]

/-- One codeword of `build` fills exactly the indices that begin with it (R163). -/
theorem tableFill_getElem? {w i : Nat} {t : Triple} (e : List (Option Nat × Nat)) (hw : t.len ≤ w)
    (he : e.length = 2 ^ w) (hi : i < 2 ^ w) [Decidable (t.Hits i)] :
    (tableFill w e t)[i]? = if t.Hits i then some (some t.symbol, t.len) else e[i]? := by
  have hr : bitsToNat (codeBits t.len t.cw) < 2 ^ t.len := by
    simpa using bitsToNat_lt (codeBits t.len t.cw)
  have hpow : 2 ^ w = 2 ^ t.len * 2 ^ (w - t.len) := by rw [← pow_add]; congr 1; omega
  have hiff : (∃ hi' < 2 ^ (w - t.len), bitsToNat (codeBits t.len t.cw) + hi' * 2 ^ t.len = i) ↔
      t.Hits i := by
    constructor
    · rintro ⟨j, -, rfl⟩
      rw [Triple.Hits, Nat.add_mul_mod_self_right, Nat.mod_eq_of_lt hr]
    · intro h
      refine ⟨i / 2 ^ t.len, Nat.div_lt_of_lt_mul (hpow ▸ hi), ?_⟩
      rw [← h, Nat.mul_comm]
      exact Nat.mod_add_div _ _
  have hin : e[i]? = some (e[i]'(he ▸ hi)) := List.getElem?_eq_getElem _
  rw [tableFill, foldl_set_getElem?]
  simp only [hiff, hin]
  rfl

theorem length_tableFill (w : Nat) (e : List (Option Nat × Nat)) (t : Triple) :
    (tableFill w e t).length = e.length :=
  length_foldl_set _ _ _ _

theorem length_tableBuild (w : Nat) (ts : List Triple) : (tableBuild w ts).length = 2 ^ w := by
  have hgen : ∀ e : List (Option Nat × Nat), (ts.foldl (tableFill w) e).length = e.length := by
    induction ts with
    | nil => exact fun e => rfl
    | cons t ts ih => exact fun e => (ih _).trans (length_tableFill w e t)
  rw [tableBuild, hgen, List.length_replicate]

/-- An entry of the table that `build` makes holds a symbol whose codeword begins its index, or nothing where
no codeword does (R163). -/
theorem tableBuild_entry {w i : Nat} (hi : i < 2 ^ w) (ts : List Triple) (hw : ∀ t ∈ ts, t.len ≤ w) :
    ((∀ t ∈ ts, ¬t.Hits i) ∧ (tableBuild w ts)[i]? = some (none, 0)) ∨
      ∃ t ∈ ts, t.Hits i ∧ (tableBuild w ts)[i]? = some (some t.symbol, t.len) := by
  induction ts using List.reverseRecOn with
  | nil => exact .inl ⟨by simp, by simp [tableBuild, hi]⟩
  | append_singleton ts t ih =>
    classical
    have hts : ∀ u ∈ ts, u.len ≤ w := fun u hu => hw u (List.mem_append_left _ hu)
    have hlast : (tableBuild w (ts ++ [t]))[i]? =
        if t.Hits i then some (some t.symbol, t.len) else (tableBuild w ts)[i]? := by
      have : tableBuild w (ts ++ [t]) = tableFill w (tableBuild w ts) t := by simp [tableBuild]
      rw [this, tableFill_getElem? _ (hw t (by simp)) (length_tableBuild w ts) hi]
    by_cases ht : t.Hits i
    · exact .inr ⟨t, by simp, ht, by rw [hlast, if_pos ht]⟩
    · rw [hlast, if_neg ht]
      rcases ih hts with ⟨hno, he⟩ | ⟨u, hu, hhit, he⟩
      · refine .inl ⟨fun u hu => ?_, he⟩
        rcases List.mem_append.mp hu with hu | hu
        · exact hno u hu
        · rwa [List.mem_singleton.mp hu]
      · exact .inr ⟨u, List.mem_append_left _ hu, hhit, he⟩

/-- A lookup table whose entries agree: an entry of `n` bits stands at every index with the same first `n`
bits. -/
def TableCovers (w : Nat) (entries : List (Option Nat × Nat)) : Prop :=
  ∀ i sym n, i < 2 ^ w → entries[i]? = some (sym, n) → n ≠ 0 →
    n ≤ w ∧ ∀ j < 2 ^ w, j % 2 ^ n = i % 2 ^ n → entries[j]? = some (sym, n)

/-- The entries of the table of a code that meets the Kraft inequality agree. -/
theorem tableBuild_covers {lens : List Nat} {maxl : Nat} (hl : ∀ l ∈ lens, l ≤ maxl)
    (hk : kraftSum lens maxl ≤ 2 ^ maxl) :
    TableCovers (maxLen lens) (tableBuild (maxLen lens) (codeTriples lens)) := by
  have hw : ∀ t ∈ codeTriples lens, t.len ≤ maxLen lens := fun t ht =>
    le_maxLen (List.mem_of_getElem? (mem_codeTriples ht).1)
  intro i sym n hi he hn
  rcases tableBuild_entry hi (codeTriples lens) hw with ⟨-, h⟩ | ⟨t, ht, hhit, h⟩
  · cases h.symm.trans he
    exact absurd rfl hn
  · cases h.symm.trans he
    refine ⟨hw t ht, fun j hj hji => ?_⟩
    have hhitj : t.Hits j := hji.trans hhit
    rcases tableBuild_entry hj (codeTriples lens) hw with ⟨hno, -⟩ | ⟨u, hu, hhitu, h'⟩
    · exact absurd hhitj (hno t ht)
    · have hsym := Triple.Hits.symbol_eq hl hk hu ht hhitu hhitj
      have hlen : u.len = t.len :=
        Option.some.inj ((mem_codeTriples hu).1.symm.trans (hsym ▸ (mem_codeTriples ht).1))
      rw [h', hsym, hlen]

end Sys2Proof.Machine
end

section
/-! Proofs about the reading of one element: from a parser between operations it answers a parser between
operations further on in the same source, the element is of the format selected, and an error kind raised is
one of the core's. -/

namespace Sys2Proof

open Sys2Proof.Machine

/-! ### The parser between operations (R22, R23, R222) -/

/-- `q` is a parser between operations, in the source of `p` and at no earlier bit. -/
structure Parser.Past (p q : Parser) : Prop where
  coherent : q.Coherent
  lazy : q.Lazy
  input : q.input = p.input
  bp_le : p.bp ≤ q.bp

theorem Parser.Past.refl {p : Parser} (hc : p.Coherent) (hl : p.Lazy) : p.Past p :=
  ⟨hc, hl, rfl, le_rfl⟩

theorem Parser.Past.trans {p q r : Parser} (h : p.Past q) (h' : q.Past r) : p.Past r :=
  ⟨h'.coherent, h'.lazy, h'.input.trans h.input, h.bp_le.trans h'.bp_le⟩

/-- A parser between operations has taken exactly the bytes it needs (R222). -/
theorem Parser.ipos_eq_of_lazy {p : Parser} (hc : p.Coherent) (hl : p.Lazy) :
    p.ipos = (p.bp + 7) / 8 := by
  obtain ⟨-, hcnt, -, -⟩ := hc
  unfold Parser.Lazy at hl
  unfold Parser.bp
  omega

/-- Taking bytes that the source has consumes no bit. -/
theorem Parser.fetched_bp {p : Parser} {k : Nat} (h : p.ipos + k ≤ p.input.length) :
    (p.fetched k).bp = p.bp := by
  have hcnt := p.fetched_bitcnt k h
  unfold Parser.bp
  rw [hcnt, Parser.fetched_ipos]
  omega

/-- Taking bytes that the source has keeps a parser coherent. -/
theorem Parser.Coherent.fetched {p : Parser} {k : Nat} (hp : p.Coherent)
    (h : p.ipos + k ≤ p.input.length) : (p.fetched k).Coherent := by
  have hcnt := p.fetched_bitcnt k h
  have hbp := p.fetched_bp h
  obtain ⟨hi, hb, hu, he⟩ := hp
  refine ⟨h, ?_, ?_, fun hs => ?_⟩
  · rw [hcnt, Parser.fetched_ipos]
    omega
  · rw [Parser.fetched_upcoming, hbp, Parser.fetched_input, hu]
  · have := he hs
    rw [Parser.fetched_ipos, Parser.fetched_input]
    omega

@[simp] theorem Parser.dropBits_bitcnt (p : Parser) (n : Nat) : (p.dropBits n).bitcnt = p.bitcnt - n := by
  simp [Parser.bitcnt, Parser.dropBits]

/-- Dropping buffered bits consumes them. -/
theorem Parser.Coherent.dropBits_bp {p : Parser} {n : Nat} (hp : p.Coherent) (h : n ≤ p.bitcnt) :
    (p.dropBits n).bp = p.bp + n := by
  obtain ⟨-, hb, -, -⟩ := hp
  unfold Parser.bp
  rw [Parser.dropBits_bitcnt]
  show 8 * p.ipos - (p.bitcnt - n) = 8 * p.ipos - p.bitcnt + n
  omega

/-- Dropping buffered bits keeps a parser coherent. -/
theorem Parser.Coherent.dropBits {p : Parser} {n : Nat} (hp : p.Coherent) (h : n ≤ p.bitcnt) :
    (p.dropBits n).Coherent := by
  have hbp := hp.dropBits_bp h
  obtain ⟨hi, hb, hu, he⟩ := hp
  refine ⟨hi, ?_, ?_, he⟩
  · rw [Parser.dropBits_bitcnt]
    exact (Nat.sub_le _ _).trans hb
  · have hup : (p.dropBits n).upcoming = p.upcoming.drop n := by
      rw [Parser.upcoming, Parser.upcoming, List.drop_append_of_le_length h]
      rfl
    rw [hup, hu, List.drop_drop, hbp]
    rfl

/-- Dropping enough buffered bits leaves a parser between operations. -/
theorem Parser.Coherent.past_dropBits {p : Parser} {n : Nat} (hp : p.Coherent) (h : n ≤ p.bitcnt)
    (h7 : p.bitcnt ≤ n + 7) : p.Past (p.dropBits n) := by
  refine ⟨hp.dropBits h, ?_, rfl, by rw [hp.dropBits_bp h]; exact Nat.le_add_right _ _⟩
  show (p.dropBits n).bitcnt ≤ 7
  rw [Parser.dropBits_bitcnt]
  omega

/-- `AlignByte` leaves a parser between operations (R227). -/
theorem Parser.Past.alignByte {p : Parser} (hc : p.Coherent) (hl : p.Lazy) : p.Past p.alignByte := by
  unfold Parser.Lazy at hl
  exact hc.past_dropBits (Nat.mod_le _ _) (by omega)

/-! ### Reading from a parser between operations -/

/-- Read from `p`, a value that has `P` with a parser between operations further on; or an error kind of the
core; or a stop. -/
def Fetched.Yields {α : Type} (P : α → Prop) (p : Parser) : Fetched α → Prop
  | .ok a q => P a ∧ p.Past q
  | .raised e _ => errCode e ≤ 5
  | .rejected _ => True

section

variable {α β : Type} {P : α → Prop} {Q : β → Prop} {p q : Parser} {x : Fetched α}

/-- Reading from a parser further on is reading from the parser before. -/
theorem Fetched.Yields.of_past (hi : q.input = p.input) (hb : p.bp ≤ q.bp) (hx : x.Yields P q) :
    x.Yields P p := by
  rcases x with ⟨a, r⟩ | ⟨e, r⟩ | r
  · obtain ⟨ha, h⟩ := hx
    exact ⟨ha, h.coherent, h.lazy, h.input.trans hi, hb.trans h.bp_le⟩
  · exact hx
  · exact hx

/-- Reading on after a read. -/
theorem Fetched.Yields.bind {f : α → Parser → Fetched β} (hx : x.Yields P p)
    (hf : ∀ a q, P a → q.Coherent → q.Lazy → (f a q).Yields Q q) : (x.bind f).Yields Q p := by
  rcases x with ⟨a, r⟩ | ⟨e, r⟩ | r
  · obtain ⟨ha, h⟩ := hx
    exact (hf a r ha h.coherent h.lazy).of_past h.input h.bp_le
  · exact hx
  · exact hx

theorem Fetched.Yields.incompleteCode : (Fetched.raised (α := α) .incompleteCode q).Yields P p :=
  show errCode .incompleteCode ≤ 5 by decide

theorem Fetched.Yields.unexpectedEndOfStream :
    (Fetched.raised (α := α) .unexpectedEndOfStream q).Yields P p :=
  show errCode .unexpectedEndOfStream ≤ 5 by decide

theorem Fetched.Yields.ok {a : α} (ha : P a) (hc : p.Coherent) (hl : p.Lazy) :
    (Fetched.ok a p).Yields P p :=
  ⟨ha, .refl hc hl⟩

end

variable {p : Parser}

/-- `GetBits(n)` (R226), whatever `n` is. -/
theorem Parser.getBits_yields (n : Nat) (hc : p.Coherent) (hl : p.Lazy) :
    (p.getBits n).Yields (fun _ => True) p := by
  by_cases hn : n ≤ p.upcoming.length
  · have hlen : (p.upcoming.take n).length = n := by simpa using hn
    obtain ⟨k, hget, -, hcnt, hk⟩ := p.getBits_ok (p.upcoming.take n) (p.upcoming.drop n) hc.eosHonest
      (List.take_append_drop _ _).symm
    rw [hlen] at hget hcnt hk
    rw [hget]
    refine ⟨trivial, ?_⟩
    rcases hk with rfl | ⟨hk, hlt⟩
    · rw [Parser.fetched_zero] at hcnt ⊢
      exact hc.past_dropBits hcnt (le_trans hl (Nat.le_add_left _ _))
    · have := (hc.fetched hk).past_dropBits hcnt (by omega)
      exact ⟨this.coherent, this.lazy, this.input, (p.fetched_bp hk).ge.trans this.bp_le⟩
  · obtain ⟨q, hq, -⟩ := p.getBits_eos n hc.eosHonest (by omega)
    rw [hq]
    exact .unexpectedEndOfStream

/-- One bit (R150). -/
theorem Parser.getBit_yields (hc : p.Coherent) (hl : p.Lazy) : p.getBit.Yields (fun _ => True) p :=
  (Parser.getBits_yields 1 hc hl).bind fun _ _ _ hqc hql => .ok trivial hqc hql

/-! ### Decoding a symbol (R150 to R166) -/

/-- The tries and the generic map read bit by bit. -/
theorem trieWalk_yields (trans : Nat → Bool → Option GVal) (fuel : Nat) :
    ∀ (st : Nat) (p : Parser), p.Coherent → p.Lazy →
      (trieWalk trans fuel st p).Yields (fun _ => True) p := by
  induction fuel with
  | zero => exact fun _ _ _ _ => trivial
  | succ fuel ih =>
    intro st p hc hl
    refine (Parser.getBit_yields hc hl).bind fun b q _ hqc hql => ?_
    split
    · exact .incompleteCode
    · exact .ok trivial hqc hql
    · exact ih _ _ hqc hql

/-- The tree reads bit by bit. -/
theorem treeWalk_yields (t : Tree) :
    ∀ p : Parser, p.Coherent → p.Lazy → (treeWalk t p).Yields (fun _ => True) p := by
  induction t with
  | empty => exact fun _ _ _ => .incompleteCode
  | leaf s => exact fun _ hc hl => .ok trivial hc hl
  | node z o ihz iho =>
    intro p hc hl
    refine (Parser.getBit_yields hc hl).bind fun b q _ hqc hql => ?_
    cases b
    · exact ihz q hqc hql
    · exact iho q hqc hql

/-- The index of a lookup is an index of the table. -/
theorem Parser.peekBits_lt (p : Parser) (w : Nat) : p.peekBits (min p.bitcnt w) < 2 ^ w :=
  (bitsToNat_lt _).trans_le <| Nat.pow_le_pow_right (by decide) <|
    (List.length_take_le _ _).trans (min_le_right _ _)

/-- The low bits of the index of a lookup. -/
theorem Parser.peekBits_mod (p : Parser) {w n : Nat} (h : n ≤ min p.bitcnt w) :
    p.peekBits (min p.bitcnt w) % 2 ^ n = bitsToNat (p.bitbuf.take n) := by
  rw [Parser.peekBits, ← bitsToNat_take, List.take_take, min_eq_left h]

/-- An entry found after a fetch is longer than the bits that were buffered before it: a shorter one would have
been found then. -/
theorem bitcnt_lt_of_entry_fetched {w : Nat} {entries : List (Option Nat × Nat)}
    (hcov : TableCovers w entries) {sym sym' : Option Nat} {n n' : Nat}
    (hentry : entries[p.peekBits (min p.bitcnt w)]? = some (sym, n)) (hmiss : ¬(n ≠ 0 ∧ n ≤ p.bitcnt))
    (hi : p.ipos + 1 ≤ p.input.length)
    (hentry' : entries[(p.fetched 1).peekBits (min (p.fetched 1).bitcnt w)]? = some (sym', n'))
    (hn' : n' ≠ 0) : p.bitcnt < n' := by
  by_contra hshort
  have hcnt := p.fetched_bitcnt 1 hi
  obtain ⟨hnw, hsame⟩ := hcov _ _ _ ((p.fetched 1).peekBits_lt w) hentry' hn'
  have hbuf : (p.fetched 1).bitbuf.take n' = p.bitbuf.take n' :=
    List.take_append_of_le_length (Nat.le_of_not_lt hshort)
  have hfound := hsame (p.peekBits (min p.bitcnt w)) (p.peekBits_lt w)
    (by rw [p.peekBits_mod (by omega), (p.fetched 1).peekBits_mod (by omega), hbuf])
  cases hfound.symm.trans hentry
  exact hmiss ⟨hn', Nat.le_of_not_lt hshort⟩

/-- The loop of the lookup table (R164).  At most 7 bits stay buffered after an entry, since one found after a
fetch is longer than what was buffered before. -/
theorem tableLoop_yields {w : Nat} {entries : List (Option Nat × Nat)} (hcov : TableCovers w entries)
    (fuel : Nat) : ∀ p : Parser, p.Coherent →
      (∀ sym n, entries[p.peekBits (min p.bitcnt w)]? = some (sym, n) → n ≠ 0 → p.bitcnt ≤ n + 7) →
      (tableLoop w entries fuel p).Yields (fun _ => True) p := by
  induction fuel with
  | zero => exact fun _ _ _ => trivial
  | succ fuel ih =>
    intro p hc hlazy
    rw [tableLoop]
    split
    · trivial
    · next sym n hentry =>
      split
      · next hhit =>
        split
        · exact ⟨trivial, hc.past_dropBits hhit.2 (hlazy _ _ hentry hhit.1)⟩
        · trivial
      · next hmiss =>
        split
        · exact .incompleteCode
        · by_cases hi : p.ipos < p.input.length
          · rw [(p.fetchByte_eq hc.eosHonest).1 hi]
            refine Fetched.Yields.of_past (q := p.fetched 1) rfl (p.fetched_bp hi).ge
              (ih _ (hc.fetched hi) fun sym' n' hentry' hn' => ?_)
            have hlong := bitcnt_lt_of_entry_fetched hcov hentry hmiss hi hentry' hn'
            have hcnt := p.fetched_bitcnt 1 hi
            omega
          · obtain ⟨q, hq, -⟩ := (p.fetchByte_eq hc.eosHonest).2 (by omega)
            rw [hq]
            exact .unexpectedEndOfStream

/-- `Decode(T)` of a table that `Build` makes, in every strategy (R150). -/
theorem decodeSym_yields {cfg : Cfg} {params : Params} {which : Which} {lens : List Nat} {maxl : Nat}
    {t : Table} (hlens : ∀ l ∈ lens, l ≤ maxl) (ht : buildTable cfg params which lens maxl = some t)
    (hc : p.Coherent) (hl : p.Lazy) : (decodeSym t p).Yields (fun _ => True) p := by
  obtain ⟨hhealthy, -, hstore⟩ := buildTable_eq_some _ _ _ _ _ _ ht
  have hdecode : (storeDecode t.maxbits t.store p).Yields (fun _ => True) p := by
    rw [hstore]
    unfold buildStore
    cases cfg.decoder
    · exact trieWalk_yields _ _ _ _ hc hl
    · exact trieWalk_yields _ _ _ _ hc hl
    · exact trieWalk_yields _ _ _ _ hc hl
    · exact treeWalk_yields _ _ hc hl
    · have hcov := tableBuild_covers hlens (kraftSum_le_of_healthy hhealthy)
      show (tableDecode _ _ p).Yields _ p
      unfold tableDecode
      split
      · exact .incompleteCode
      · exact tableLoop_yields hcov _ p hc fun _ n _ _ => le_trans hl (Nat.le_add_left _ _)
  unfold decodeSym
  split
  · exact .incompleteCode
  · exact hdecode
  · exact hdecode

/-- `Decode` of a table that the invariant says is there (R42). -/
theorem decodeWith_yields {s : State} {which : Which} {n maxl : Nat} {t : Option Table}
    (ht : TableOk s which n maxl t) (hc : p.Coherent) (hl : p.Lazy) :
    (decodeWith t p).Yields (fun _ => True) p := by
  obtain ⟨lens, -, hlens, hsome, hbuild⟩ := ht
  obtain ⟨tab, rfl⟩ := Option.isSome_iff_exists.mp hsome
  exact decodeSym_yields hlens hbuild hc hl

/-! ### The element selected (R120) -/

/-- The rows that each (`PHASE`, `SUB`) selects (R120). -/
def Ctx.Selects (c : Ctx) (i : Instr) : Prop :=
  match c.phase, c.sub with
  | .header, _ => (headerRow i).isSome = true
  | .stored, .sHdr => ∃ len nlen, i = .storedHdr len nlen
  | .stored, .sData => ∃ v, i = .storedByte v
  | .fixed, .fData => dataRow c.mode i = true
  | .dynamic, .dCounts => ∃ hlit hdist hclen, i = .dynCounts hlit hdist hclen
  | .dynamic, .dCllens => (c.clidx < c.ncl ∧ ∃ len, i = .dynCllen len) ∨ i = .dynClbuild
  | .dynamic, .dLens => clRow i = true
  | .dynamic, .dBuild => i = .dynBuild
  | .dynamic, .dData => dataRow c.mode i = true
  | _, _ => False

theorem readHeader_yields (hc : p.Coherent) (hl : p.Lazy) :
    (readHeader p).Yields (fun i => (headerRow i).isSome = true) p :=
  (Parser.getBits_yields 1 hc hl).bind fun _ _ _ hqc hql =>
    (Parser.getBits_yields 2 hqc hql).bind fun type r _ hrc hrl => by
      split <;> exact .ok rfl hrc hrl

theorem readStoredHdr_yields (hc : p.Coherent) (hl : p.Lazy) :
    (readStoredHdr p).Yields (fun i => ∃ len nlen, i = .storedHdr len nlen) p := by
  have ha := Parser.Past.alignByte hc hl
  exact Fetched.Yields.of_past ha.input ha.bp_le <|
    (Parser.getBits_yields 16 ha.coherent ha.lazy).bind fun _ _ _ hqc hql =>
      (Parser.getBits_yields 16 hqc hql).bind fun _ _ _ hrc hrl => .ok ⟨_, _, rfl⟩ hrc hrl

theorem readStoredByte_yields (hc : p.Coherent) (hl : p.Lazy) :
    (readStoredByte p).Yields (fun i => ∃ v, i = .storedByte v) p :=
  (Parser.getBits_yields 8 hc hl).bind fun _ _ _ hqc hql => .ok ⟨_, rfl⟩ hqc hql

/-- The bytes of a stored block, while some are left (R258). -/
theorem readStoredData_yields (left : Bool) (hc : p.Coherent) (hl : p.Lazy) :
    (if left then readStoredByte p else .rejected .noElement : Fetched Instr).Yields
      (fun i => ∃ v, i = .storedByte v) p := by
  cases left
  · trivial
  · exact readStoredByte_yields hc hl

theorem readCounts_yields (hc : p.Coherent) (hl : p.Lazy) :
    (readCounts p).Yields (fun i => ∃ hlit hdist hclen, i = .dynCounts hlit hdist hclen) p :=
  (Parser.getBits_yields 5 hc hl).bind fun _ _ _ hqc hql =>
    (Parser.getBits_yields 5 hqc hql).bind fun _ _ _ hrc hrl =>
      (Parser.getBits_yields 4 hrc hrl).bind fun _ _ _ hsc hsl => .ok ⟨_, _, _, rfl⟩ hsc hsl

theorem readCllen_yields (hc : p.Coherent) (hl : p.Lazy) :
    (readCllen p).Yields (fun i => ∃ len, i = .dynCllen len) p :=
  (Parser.getBits_yields 3 hc hl).bind fun _ _ _ hqc hql => .ok ⟨_, rfl⟩ hqc hql

/-- A code-length symbol below 16 names a row of the code lengths. -/
theorem clRow_of_clLenInstr {v : Nat} {i : Instr} (h : clLenInstr v = some i) : clRow i = true := by
  unfold clLenInstr at h
  split at h <;> cases h <;> rfl

theorem clElement_yields (stops : Bool) (v : Nat) (hc : p.Coherent) (hl : p.Lazy) :
    (clElement stops v p).Yields (fun i => clRow i = true) p := by
  unfold clElement
  split
  · split
    · exact .ok rfl hc hl
    · exact (Parser.getBits_yields 2 hc hl).bind fun _ _ _ hqc hql => .ok rfl hqc hql
  · exact (Parser.getBits_yields 3 hc hl).bind fun _ _ _ hqc hql => .ok rfl hqc hql
  · exact (Parser.getBits_yields 7 hc hl).bind fun _ _ _ hqc hql => .ok rfl hqc hql
  · split
    · next hi => exact .ok (clRow_of_clLenInstr hi) hc hl
    · trivial

theorem distElement_yields (mode : Mode) (c : Nat) (hc : p.Coherent) (hl : p.Lazy) :
    (distElement mode c p).Yields (fun _ => True) p := by
  unfold distElement
  split
  · trivial
  · exact (Parser.getBits_yields _ hc hl).bind fun _ _ _ hqc hql => .ok trivial hqc hql

/-- A length symbol names a row of the data of a block. -/
theorem dataRow_of_matchInstr {mode : Mode} {v x : Nat} {d : DistField} {i : Instr}
    (h : matchInstr mode v x d = some i) : dataRow mode i = true := by
  unfold matchInstr at h
  split at h <;> cases h <;> rfl

theorem dataElement_yields (mode : Mode) (dist : Parser → Fetched DistField) (v : Nat)
    (hdist : ∀ q : Parser, q.Coherent → q.Lazy → (dist q).Yields (fun _ => True) q)
    (hc : p.Coherent) (hl : p.Lazy) :
    (dataElement mode dist v p).Yields (fun i => dataRow mode i = true) p := by
  unfold dataElement
  split
  · exact .ok rfl hc hl
  · split
    · exact .ok rfl hc hl
    · split
      · refine (Parser.getBits_yields _ hc hl).bind fun x q _ hqc hql =>
          (hdist q hqc hql).bind fun d r _ hrc hrl => ?_
        split
        · next hi => exact .ok (dataRow_of_matchInstr hi) hrc hrl
        · trivial
      · split
        · exact .ok rfl hc hl
        · trivial

/-- One element of the data of a block, with the tables that the invariant says are there. -/
theorem readData_yields {s : State} (ht : DataTablesOk s) (hc : p.Coherent) (hl : p.Lazy) :
    (readData s.ctx p).Yields (fun i => dataRow s.ctx.mode i = true) p :=
  (decodeWith_yields ht.1 hc hl).bind fun v _ _ hqc hql =>
    dataElement_yields _ _ v (fun _ hrc hrl => (decodeWith_yields ht.2 hrc hrl).bind fun c _ _ hsc hsl =>
      distElement_yields _ c hsc hsl) hqc hql

/-- One code-length element, with the table that the invariant says is there. -/
theorem readCl_yields {s : State} (ht : TableOk s .cl 19 7 s.reg.cltab) (hc : p.Coherent) (hl : p.Lazy) :
    (readCl s.ctx p).Yields (fun i => clRow i = true) p :=
  (decodeWith_yields ht hc hl).bind fun v _ _ hqc hql => clElement_yields _ v hqc hql

/-- The lengths of the code-length code, or their end (R273, R275). -/
theorem readCllens_yields (c : Ctx) (hc : p.Coherent) (hl : p.Lazy) :
    (if c.clidx < c.ncl then readCllen p
      else if c.clidx = c.ncl then .ok .dynClbuild p
      else .rejected .noElement : Fetched Instr).Yields
      (fun i => (c.clidx < c.ncl ∧ ∃ len, i = .dynCllen len) ∨ i = .dynClbuild) p := by
  split
  · next hlt =>
    exact (Parser.getBits_yields 3 hc hl).bind fun _ _ _ hqc hql => .ok (.inl ⟨hlt, _, rfl⟩) hqc hql
  · split
    · exact .ok (.inr rfl) hc hl
    · trivial

/-- Reading one element in a state whose tables are there: the row is one that the state selects (R120). -/
theorem decodeElem_yields {s : State} (hphase : PhaseOk s) (hc : p.Coherent) (hl : p.Lazy) :
    (decodeElem s.ctx p).Yields s.ctx.Selects p := by
  have hctx : s.ctx.phase = s.phase ∧ s.ctx.sub = s.reg.sub := ⟨rfl, rfl⟩
  unfold PhaseOk at hphase
  unfold decodeElem Ctx.Selects
  rw [hctx.1, hctx.2]
  revert hphase
  generalize s.phase = phase
  generalize s.reg.sub = sub
  intro hphase
  cases phase with
  | header => exact readHeader_yields hc hl
  | stored =>
    cases sub with
    | sHdr => exact readStoredHdr_yields hc hl
    | sData => exact readStoredData_yields _ hc hl
    | _ => trivial
  | fixed =>
    cases sub with
    | fData => exact readData_yields hphase.2 hc hl
    | _ => trivial
  | dynamic =>
    cases sub with
    | dCounts => exact readCounts_yields hc hl
    | dCllens => exact readCllens_yields s.ctx hc hl
    | dLens => exact readCl_yields hphase.1 hc hl
    | dBuild => exact .ok rfl hc hl
    | dData => exact readData_yields hphase hc hl
    | _ => trivial
  | _ => trivial

end Sys2Proof
end

section
/-! Proofs about the control registers: every element that a state selects keeps the arrays at their sizes and
the tables and counters that the next phase needs, or ends in a fault. -/

namespace Sys2Proof.Machine

variable {s t : State}

/-! ### Which rows are selected, and what they execute -/

/-- No host call is an element of the stream (R120). -/
theorem callRow_of_selects {c : Ctx} {i : Instr} (h : c.Selects i) : callRow i = false := by
  cases i with
  | construct | read | readbuf | close =>
    unfold Ctx.Selects at h
    split at h <;> simp [headerRow, dataRow, matchRow, clRow, clLenRow] at h
  | _ => rfl

/-- A header row executes `BHDR` with its fields (R241). -/
theorem exec_of_headerRow {i : Instr} {final : Bool} {type : BitVec 2} (h : headerRow i = some (final, type)) :
    exec i s = execBhdr final type s := by
  cases i with
  | bhdr | blkStored | blkFixed | blkDynamic | blkReserved => cases h; rfl
  | _ => cases h

/-- A row of the data of a block is a literal, the end of the block, a symbol without a meaning, or a match
(R300). -/
theorem exec_of_dataRow {mode : Mode} {i : Instr} (h : dataRow mode i = true) :
    (∃ v, exec i s = execLit v s) ∨ exec i s = execEob s ∨ (∃ n, exec i s = execLlInvalid n s) ∨
      ∃ sym mlen d, exec i s = matchOp sym mlen d s := by
  cases i with
  | lit v => exact .inl ⟨v, rfl⟩
  | eob => exact .inr (.inl rfl)
  | llInvalid n => exact .inr (.inr (.inl ⟨n, rfl⟩))
  | matchL257 | matchL258 | matchL259 | matchL260 | matchL261 | matchL262 | matchL263 | matchL264
  | matchL265 | matchL266 | matchL267 | matchL268 | matchL269 | matchL270 | matchL271 | matchL272
  | matchL273 | matchL274 | matchL275 | matchL276 | matchL277 | matchL278 | matchL279 | matchL280
  | matchL281 | matchL282 | matchL283 | matchL284 | matchL285 | matchL285D64 =>
    exact .inr (.inr (.inr ⟨_, _, _, rfl⟩))
  | _ => cases h

/-- A code-length row gives one length, repeats the previous one, or runs zeros (R276). -/
theorem exec_of_clRow {i : Instr} (h : clRow i = true) :
    (∃ v, exec i s = clLen v s) ∨ (∃ x, exec i s = execClRep16 x s) ∨ ∃ r, exec i s = zeroLens r s := by
  cases i with
  | clLen0 | clLen1 | clLen2 | clLen3 | clLen4 | clLen5 | clLen6 | clLen7 | clLen8 | clLen9 | clLen10
  | clLen11 | clLen12 | clLen13 | clLen14 | clLen15 => exact .inl ⟨_, rfl⟩
  | clRep16 x => exact .inr (.inl ⟨x, rfl⟩)
  | clZrep17 | clZrep18 => exact .inr (.inr ⟨_, rfl⟩)
  | _ => cases h

/-! ### What the phases need -/

theorem phaseOk_header (h : s.phase = .header) : PhaseOk s := by simp [PhaseOk, h]

theorem phaseOk_done (h : s.phase = .done) : PhaseOk s := by simp [PhaseOk, h]

theorem phaseOk_sData (hp : s.phase = .stored) (hs : s.reg.sub = .sData) (h : s.reg.srem ≠ 0) :
    PhaseOk s := by
  simpa [PhaseOk, hp, hs] using h

theorem phaseOk_dCllens (hp : s.phase = .dynamic) (hs : s.reg.sub = .dCllens)
    (h : s.reg.clidx ≤ ncl s.reg.hclen) : PhaseOk s := by
  simp [PhaseOk, hp, hs, h]

theorem phaseOk_dLens_iff (hp : s.phase = .dynamic) (hs : s.reg.sub = .dLens) :
    PhaseOk s ↔ TableOk s .cl 19 7 s.reg.cltab ∧ s.reg.lidx < lensWanted s := by
  simp [PhaseOk, hp, hs]

theorem phaseOk_dLens (hp : s.phase = .dynamic) (hs : s.reg.sub = .dLens)
    (ht : TableOk s .cl 19 7 s.reg.cltab) (hl : s.reg.lidx < lensWanted s) : PhaseOk s :=
  (phaseOk_dLens_iff hp hs).mpr ⟨ht, hl⟩

theorem phaseOk_dBuild (hp : s.phase = .dynamic) (hs : s.reg.sub = .dBuild)
    (h : s.reg.lidx = lensWanted s) : PhaseOk s := by
  simp [PhaseOk, hp, hs, h]

theorem phaseOk_dData (hp : s.phase = .dynamic) (hs : s.reg.sub = .dData) (h : DataTablesOk s) :
    PhaseOk s := by
  simp [PhaseOk, hp, hs, h]

/-- The registers are as the phase that they are in needs them. -/
def ControlOk (s : State) : Prop :=
  ArraysOk s ∧ PhaseOk s

/-- The end of a block needs nothing but the arrays. -/
theorem ControlOk.endBlock (h : ArraysOk s) : ControlOk (endBlock s) :=
  ⟨h, (endBlock_phase_cases s).elim phaseOk_done phaseOk_header⟩

/-! ### Tables (R140) -/

/-- A table that `Build` makes from an array of the right size. -/
theorem tableOk_of_build {which : Which} {n maxl : Nat} {lens : List Nat} {tab : Table}
    (hn : lens.length = n) (hl : ∀ l ∈ lens, l ≤ maxl)
    (h : buildTable s.cfg s.params which lens maxl = some tab) : TableOk s which n maxl (some tab) :=
  ⟨lens, hn, hl, rfl, h⟩

/-- Code lengths held in `w` bits are below `2^w`. -/
theorem le_of_mem_toNat {w l : Nat} {lens : List (BitVec w)} (h : l ∈ lens.map BitVec.toNat) :
    l ≤ 2 ^ w - 1 := by
  obtain ⟨v, -, rfl⟩ := List.mem_map.mp h
  exact Nat.le_sub_one_of_lt v.isLt

theorem length_fixedAlphabets :
    fixedLiteralLengthAlphabet.length = 288 ∧ fixedDistanceAlphabet.length = 32 := by
  simp only [fixedLiteralLengthAlphabet, fixedDistanceAlphabet, List.length_append,
    List.length_replicate, and_self]

theorem fixedAlphabets_le :
    (∀ l ∈ fixedLiteralLengthAlphabet, l ≤ 15) ∧ ∀ l ∈ fixedDistanceAlphabet, l ≤ 15 := by
  constructor
  · intro l hl
    simp only [fixedLiteralLengthAlphabet, List.mem_append, List.mem_replicate] at hl
    omega
  · intro l hl
    simp only [fixedDistanceAlphabet, List.mem_replicate] at hl
    omega

/-- The fixed alphabets pass the health check, whatever `EMPTY_DIST_CODE` is (R144, R145, R146). -/
theorem fixedAlphabets_healthy (e : EmptyDistCode) :
    checkHealth e .ll fixedLiteralLengthAlphabet maxBitsData = some .complete ∧
      checkHealth e .d fixedDistanceAlphabet maxBitsData = some .complete := by
  cases e <;> decide +kernel

/-- A table of an array that passes the health check. -/
theorem tableOk_of_healthy {which : Which} {n maxl : Nat} {lens : List Nat} {k : Kind}
    (hn : lens.length = n) (hl : ∀ l ∈ lens, l ≤ maxl)
    (h : checkHealth s.params.emptyDistCode which lens maxl = some k) :
    TableOk s which n maxl (buildTable s.cfg s.params which lens maxl) := by
  refine ⟨lens, hn, hl, ?_, rfl⟩
  rw [← Option.ne_none_iff_isSome, Ne, buildTable_eq_none, h]
  nofun

/-- The fixed tables (R146). -/
theorem fixedTables_ok (s : State) :
    TableOk s .ll 288 15 (buildTable s.cfg s.params .ll fixedLiteralLengthAlphabet maxBitsData) ∧
      TableOk s .d 32 15 (buildTable s.cfg s.params .d fixedDistanceAlphabet maxBitsData) := by
  obtain ⟨hll, hd⟩ := fixedAlphabets_healthy s.params.emptyDistCode
  exact ⟨tableOk_of_healthy length_fixedAlphabets.1 fixedAlphabets_le.1 hll,
    tableOk_of_healthy length_fixedAlphabets.2 fixedAlphabets_le.2 hd⟩

/-! ### Each operation -/

/-- Building the fixed tables leaves them present. -/
theorem buildFixed_ok (h : ArraysOk s) :
    ArraysOk (buildFixed s) ∧ (buildFixed s).fixedBuilt = true := by
  have htables := fixedTables_ok s
  revert htables
  unfold buildFixed
  generalize buildTable s.cfg s.params .ll fixedLiteralLengthAlphabet maxBitsData = tll
  generalize buildTable s.cfg s.params .d fixedDistanceAlphabet maxBitsData = td
  intro htables
  split
  · next hb => exact ⟨h, hb⟩
  · obtain ⟨hcll, hlens, hll, hdl, -⟩ := h
    exact ⟨⟨hcll, hlens, hll, hdl, fun _ => htables⟩, rfl⟩

/-- A block of type 1 has its tables. -/
theorem enterFixed_controlOk (h : ArraysOk s) : ControlOk (enterFixed s) := by
  obtain ⟨⟨hcll, hlens, -, -, hfix⟩, hb⟩ := buildFixed_ok h
  exact ⟨⟨hcll, hlens, (List.length_map _).trans length_fixedAlphabets.1,
    (List.length_map _).trans length_fixedAlphabets.2, hfix⟩, rfl, hfix hb⟩

theorem execBhdr_controlOk {final : Bool} {type : BitVec 2} (h : ArraysOk s)
    (hx : execBhdr final type s = .next t) : t.phase = .failed ∨ ControlOk t := by
  unfold execBhdr at hx
  split at hx <;> cases hx
  · exact .inr ⟨h, .inl rfl⟩
  · exact .inr (enterFixed_controlOk (s := recordHeader final 1 s) h)
  · exact .inr ⟨h, trivial⟩
  · exact .inl rfl

theorem execStoredHdr_controlOk {len nlen : BitVec 16} (h : ArraysOk s) (hp : s.phase = .stored)
    (hx : execStoredHdr len nlen s = .next t) : t.phase = .failed ∨ ControlOk t := by
  unfold execStoredHdr at hx
  split at hx <;> cases hx
  · right
    unfold startStored
    split
    · exact .endBlock h
    · next hlen => exact ⟨h, phaseOk_sData hp rfl hlen⟩
  · exact .inl rfl

theorem execStoredByte_controlOk {v : Byte} (h : ArraysOk s) (hp : s.phase = .stored)
    (hs : s.reg.sub = .sData) (hx : execStoredByte v s = .next t) : ControlOk t := by
  cases hx
  unfold countStored
  split
  · exact .endBlock h
  · next hsrem => exact ⟨h, phaseOk_sData hp hs hsrem⟩

theorem execDynCounts_controlOk {hlit hdist : BitVec 5} {hclen : BitVec 4} (h : ArraysOk s)
    (hp : s.phase = .dynamic) (hx : execDynCounts hlit hdist hclen s = .next t) : ControlOk t := by
  cases hx
  obtain ⟨-, hrest⟩ := h
  exact ⟨⟨List.length_replicate, hrest⟩, phaseOk_dCllens hp rfl (Nat.zero_le _)⟩

theorem execDynCllen_controlOk {len : BitVec 3} (h : ArraysOk s) (hp : s.phase = .dynamic)
    (hs : s.reg.sub = .dCllens) (hlt : s.reg.clidx < ncl s.reg.hclen)
    (hx : execDynCllen len s = .next t) : ControlOk t := by
  cases hx
  obtain ⟨hcll, hrest⟩ := h
  refine ⟨⟨?_, hrest⟩, phaseOk_dCllens hp hs hlt⟩
  dsimp only
  split
  · rw [List.length_set, hcll]
  · exact hcll

theorem execDynClbuild_controlOk (h : ArraysOk s) (hp : s.phase = .dynamic)
    (hx : execDynClbuild s = .next t) : t.phase = .failed ∨ ControlOk t := by
  unfold execDynClbuild at hx
  split at hx <;> cases hx
  · exact .inl rfl
  · next tab htab =>
    have htable : TableOk s .cl 19 7 (some tab) :=
      tableOk_of_build (by rw [List.length_map, h.1]) (fun _ hl => le_of_mem_toNat hl) htab
    exact .inr ⟨h, phaseOk_dLens hp rfl htable (Nat.add_pos_left (Nat.succ_pos _) _)⟩

/-- What holds while code lengths are written (R276): the table for them is there, and the counter is no
further than the lengths wanted. -/
structure LensOk (s : State) : Prop where
  arrays : ArraysOk s
  phase : s.phase = .dynamic
  sub : s.reg.sub = .dLens
  table : TableOk s .cl 19 7 s.reg.cltab
  lidx : s.reg.lidx ≤ lensWanted s

theorem LensOk.putLens {r : Nat} {v : BitVec 4} (h : LensOk s) (hr : s.reg.lidx + r ≤ lensWanted s) :
    LensOk (putLens r v s) := by
  obtain ⟨⟨hcll, hlens, hrest⟩, hp, hs, ht, -⟩ := h
  exact ⟨⟨hcll, (length_foldl_set _ _ _ _).trans hlens, hrest⟩, hp, hs, ht, hr⟩

theorem LensOk.setPrev {v : BitVec 4} (h : LensOk s) : LensOk (setPrev v s) := by
  obtain ⟨ha, hp, hs, ht, hl⟩ := h
  exact ⟨ha, hp, hs, ht, hl⟩

theorem LensOk.afterLens (h : LensOk s) : ControlOk (afterLens s) := by
  obtain ⟨ha, hp, hs, ht, hl⟩ := h
  unfold Machine.afterLens
  split
  · next he => exact ⟨ha, phaseOk_dBuild hp rfl he⟩
  · next hne => exact ⟨ha, phaseOk_dLens hp hs ht (lt_of_le_of_ne hl hne)⟩

theorem repeatLens_controlOk {r : Nat} {v : BitVec 4} (h : LensOk s) (hx : repeatLens r v s = .next t) :
    t.phase = .failed ∨ ControlOk t := by
  unfold repeatLens at hx
  split at hx <;> cases hx
  · exact .inl rfl
  · next hr => exact .inr (h.putLens (Nat.le_of_not_lt hr)).afterLens

theorem zeroLens_controlOk {r : Nat} (h : LensOk s) (hx : zeroLens r s = .next t) :
    t.phase = .failed ∨ ControlOk t := by
  unfold zeroLens at hx
  split at hx <;> cases hx
  · exact .inl rfl
  · next hr => exact .inr (h.putLens (Nat.le_of_not_lt hr)).setPrev.afterLens

theorem execClRep16_controlOk {x : BitVec 2} (h : LensOk s) (hx : execClRep16 x s = .next t) :
    t.phase = .failed ∨ ControlOk t := by
  unfold execClRep16 at hx
  split at hx
  · exact repeatLens_controlOk h hx
  · split at hx
    · cases hx
      exact .inl rfl
    · obtain ⟨ha, hp, hs, ht, hl⟩ := h
      exact repeatLens_controlOk (s := { s with reg := { s.reg with prev := 0 } }) ⟨ha, hp, hs, ht, hl⟩ hx

/-- A code-length element keeps the registers as the phase needs them. -/
theorem exec_clRow_controlOk {i : Instr} (hi : clRow i = true) (h : LensOk s)
    (hlt : s.reg.lidx < lensWanted s) (hx : exec i s = .next t) : t.phase = .failed ∨ ControlOk t := by
  rcases exec_of_clRow (s := s) hi with ⟨v, he⟩ | ⟨x, he⟩ | ⟨r, he⟩ <;> rw [he] at hx
  · cases hx
    exact .inr (h.putLens hlt).setPrev.afterLens
  · exact execClRep16_controlOk h hx
  · exact zeroLens_controlOk h hx

/-- The data tables of a dynamic block are built from arrays of their sizes. -/
theorem execDynBuild_controlOk (h : ArraysOk s) (hp : s.phase = .dynamic)
    (hx : execDynBuild s = .next t) : t.phase = .failed ∨ ControlOk t := by
  obtain ⟨hcll, hlens, -, -, hfix⟩ := h
  have hll : (dynLl s.reg).length = 288 := by simp [dynLl]
  have hdl : (dynDl s.reg).length = 32 := by simp [dynDl]
  unfold execDynBuild buildData at hx
  split at hx
  · cases hx
    exact .inl rfl
  · next tl htl =>
    split at hx <;> cases hx
    · exact .inl rfl
    · next td htd =>
      have htl' : TableOk s .ll 288 15 (some tl) :=
        tableOk_of_build (by rw [List.length_map]; exact hll) (fun _ hl => le_of_mem_toNat hl) htl
      have htd' : TableOk s .d 32 15 (some td) :=
        tableOk_of_build (by rw [List.length_map]; exact hdl) (fun _ hl => le_of_mem_toNat hl) htd
      exact .inr ⟨⟨hcll, hlens, hll, hdl, hfix⟩, phaseOk_dData hp rfl ⟨htl', htd'⟩⟩

/-- Appending, with the registers of a symbol recorded, changes nothing that a phase needs. -/
theorem Appends.controlOk {sy : BitVec 9} {ml : BitVec 17} {ds : BitVec 5} {md : BitVec 17}
    (ha : Appends { s with reg := { s.reg with sym := sy, mlen := ml, dsym := ds, mdist := md } } t)
    (h : ControlOk s) : ControlOk t := by
  obtain ⟨hf, -⟩ := ha
  rw [hf]
  exact h

/-- An element of the data of a block keeps the registers as the phase needs them. -/
theorem exec_dataRow_controlOk {mode : Mode} {i : Instr} (hi : dataRow mode i = true) (h : ControlOk s)
    (hx : exec i s = .next t) : t.phase = .failed ∨ ControlOk t := by
  rcases exec_of_dataRow (s := s) hi with ⟨v, he⟩ | he | ⟨n, he⟩ | ⟨sym, mlen, d, he⟩ <;> rw [he] at hx
  · cases hx
    exact .inr h
  · cases hx
    exact .inr (.endBlock (s := setSym 256 s) h.1)
  · cases hx
    exact .inl rfl
  · rcases matchOp_cases hx with ⟨sy, ml, ds, md, ha⟩ | ⟨r, rfl⟩
    · exact .inr (ha.controlOk h)
    · exact .inl rfl

/-- Every element that the state selects keeps the registers as the phase needs them, or faults. -/
theorem exec_controlOk {i : Instr} (hi : s.ctx.Selects i) (h : ControlOk s) (hx : exec i s = .next t) :
    t.phase = .failed ∨ ControlOk t := by
  obtain ⟨ha, hph⟩ := h
  unfold Ctx.Selects at hi
  split at hi
  · obtain ⟨⟨final, type⟩, hrow⟩ := Option.isSome_iff_exists.mp hi
    exact execBhdr_controlOk ha ((exec_of_headerRow hrow).symm.trans hx)
  · next hp hs =>
    obtain ⟨len, nlen, rfl⟩ := hi
    exact execStoredHdr_controlOk ha hp hx
  · next hp hs =>
    obtain ⟨v, rfl⟩ := hi
    exact .inr (execStoredByte_controlOk ha hp hs hx)
  · exact exec_dataRow_controlOk hi ⟨ha, hph⟩ hx
  · next hp hs =>
    obtain ⟨hlit, hdist, hclen, rfl⟩ := hi
    exact .inr (execDynCounts_controlOk ha hp hx)
  · next hp hs =>
    rcases hi with ⟨hlt, len, rfl⟩ | rfl
    · exact .inr (execDynCllen_controlOk ha hp hs hlt hx)
    · exact execDynClbuild_controlOk ha hp hx
  · next hp hs =>
    obtain ⟨htable, hlt⟩ := (phaseOk_dLens_iff hp hs).mp hph
    exact exec_clRow_controlOk hi ⟨ha, hp, hs, htable, hlt.le⟩ hlt hx
  · next hp hs =>
    subst hi
    exact execDynBuild_controlOk ha hp hx
  · exact exec_dataRow_controlOk hi ⟨ha, hph⟩ hx
  · exact hi.elim

end Sys2Proof.Machine
end

section
/-! Proofs about the session invariant: reset and every new session meet it, every stream operation and every
host call keep it; and what follows for the bit pointer and for the deliveries. -/

namespace Sys2Proof.Machine

variable {s t : State}

/-! ### The status (R28) -/

theorem errReg_eq_zero_iff : s.errReg = 0 ↔ s.err = none := by
  unfold State.errReg
  cases s.err with
  | none => simp
  | some e => simpa using errCode_ne_zero e

/-- While the engine runs no error is recorded. -/
theorem State.Inv.err_eq_none (h : s.Inv) (hrun : running s.phase = true) : s.err = none := by
  obtain ⟨hfailed, -⟩ := h.status
  by_contra he
  obtain ⟨hnot, hopen⟩ := running_open hrun
  exact hnot ((hfailed hopen).mpr fun hz => he (errReg_eq_zero_iff.mp hz))

/-- A call in progress stays one while the session stays open. -/
theorem callOk_of_host_eq (hhost : t.host = s.host) (hopen : t.phase ≠ .closed) (h : CallOk s) :
    CallOk t := by
  unfold CallOk at h ⊢
  rw [hhost]
  cases hc : s.host.call with
  | none => trivial
  | some c =>
    rw [hc] at h
    cases c with
    | construct | close => exact h
    | read | readbuf => exact ⟨hopen, h.2⟩

/-! ### The states that a session begins with (R55, R341) -/

/-- The arrays at reset have their sizes, and no fixed table is needed yet. -/
theorem arraysOk_of_fresh (hreg : s.reg = Regs.fresh) (hfix : s.fixedBuilt = false) : ArraysOk s := by
  unfold ArraysOk
  rw [hreg, hfix]
  exact ⟨List.length_replicate, List.length_replicate, List.length_replicate, List.length_replicate, nofun⟩

/-- A state that holds the reset values of R55 meets the invariant, whatever its configuration and source
are. -/
theorem inv_of_fresh (source : List Byte) (hlegal : Cfg.legal s.cfg = true)
    (hbits : s.bits = Parser.start source) (hphase : s.phase = .header) (herr : s.err = none)
    (hfix : s.fixedBuilt = false) (hreg : s.reg = Regs.fresh) (hbuf : s.buf = Buf.fresh s.cfg)
    (hcall : CallOk s) : s.Inv where
  cfg_legal := hlegal
  status := by
    have hz : s.errReg = 0 := errReg_eq_zero_iff.mpr herr
    refine ⟨fun _ => ⟨fun hf => ?_, fun hne => absurd hz hne⟩, ?_⟩
    · exact nomatch hphase.symm.trans hf
    · rw [hz]
      decide
  call := hcall
  phys_wf := by rw [hbuf]; rfl
  retains _ := by
    rw [hbuf]
    exact ⟨Nat.zero_le _, Nat.zero_le _, Nat.zero_le _⟩
  parser _ _ := by
    rw [hbits]
    exact ⟨Parser.start_coherent source, Parser.start_lazy source⟩
  arrays _ _ := arraysOk_of_fresh hreg hfix
  phases := phaseOk_header hphase

theorem reset_inv : State.reset.Inv :=
  inv_of_fresh [] (by decide) rfl rfl rfl rfl rfl rfl trivial

/-- Settles O49: each value of the reset state, by computation. -/
theorem resetValues : Obligations.ResetValues := by
  unfold Obligations.ResetValues
  exact ⟨rfl, rfl, rfl, rfl, rfl, rfl, rfl, rfl, rfl, rfl, rfl, rfl, rfl, rfl, rfl, rfl, rfl, rfl, rfl, rfl,
    rfl, rfl, rfl, rfl, rfl, rfl, rfl, rfl, rfl, rfl, rfl, rfl, rfl, rfl, rfl, rfl, rfl, rfl, rfl, rfl⟩

/-- Settles O50: reset holds the values of R55, and its output is empty. -/
theorem resetMeetsInvariants : Obligations.ResetMeetsInvariants := by
  have hlaid : Buf.LaidOut State.reset.cfg.buffer State.reset.buf :=
    ⟨fun _ => by decide, fun _ => le_rfl, fun p _ hp => absurd hp (Nat.not_lt_zero p)⟩
  exact ⟨reset_inv, hlaid, fun _ => rfl⟩

/-! ### A stream operation keeps the invariant -/

/-- What a stream operation does in a running state that meets the invariant: it faults with an error kind of
the core, or it goes on from a parser past its element with the registers as the next phase needs them. -/
theorem streamStep_cases_of_inv (hs : s.Inv) (hrun : running s.phase = true)
    (h : streamStep s = .next t) :
    ∃ p, Faulted (atElement p s) t ∨
      s.bits.Past p ∧ WentOn (atElement p s) t ∧ t.phase ≠ .failed ∧ t.phase ≠ .closed ∧ ControlOk t := by
  obtain ⟨hfailed, hclosed⟩ := running_open hrun
  obtain ⟨hc, hl⟩ := hs.parser hfailed hclosed
  have hread : (fetchElem s).Yields s.ctx.Selects s.bits := decodeElem_yields hs.phases hc hl
  rcases streamStep_cases s with ⟨i, p, hf, hstep⟩ | ⟨e, p, hf, hstep⟩ | ⟨r, -, hstep⟩
  · rw [hf] at hread
    obtain ⟨hsel, hpast⟩ := hread
    rw [hstep] at h
    have hcontrol := exec_controlOk (s := atElement p s) hsel ⟨hs.arrays hfailed hclosed, hs.phases⟩ h
    refine ⟨p, ?_⟩
    rcases exec_effect (callRow_of_selects hsel) h with hw | hfault
    · have hopen : t.phase ≠ .failed ∧ t.phase ≠ .closed := by
        rcases hw.phase with hp | hp | hp
        · rw [hp]
          exact ⟨hfailed, hclosed⟩
        · rw [hp]
          exact ⟨nofun, nofun⟩
        · exact running_open hp
      exact .inr ⟨hpast, hw, hopen.1, hopen.2, hcontrol.resolve_left hopen.1⟩
    · exact .inl hfault
  · rw [hf] at hread
    cases hstep.symm.trans h
    exact ⟨p, .inl ⟨e, s.reg, hread, rfl⟩⟩
  · cases hstep.symm.trans h

/-- A fault keeps the invariant. -/
theorem Faulted.inv {p : Parser} (hs : s.Inv) (hrun : running s.phase = true)
    (h : Faulted (atElement p s) t) : t.Inv := by
  obtain ⟨e, r, hcore, rfl⟩ := h
  have hopen := (running_open hrun).2
  have herr : (raise e { atElement p s with reg := r }).errReg = errCode e := by
    simp [State.errReg, hs.err_eq_none hrun]
  exact {
    cfg_legal := hs.cfg_legal
    status := by
      refine ⟨fun _ => ⟨fun _ => ?_, fun _ => rfl⟩, ?_⟩ <;> rw [herr]
      · exact errCode_ne_zero e
      · exact hcore
    call := callOk_of_host_eq (s := s) rfl nofun hs.call
    phys_wf := hs.phys_wf
    retains := fun _ => hs.retains hopen
    parser := fun hf => absurd rfl hf
    arrays := fun hf => absurd rfl hf
    phases := trivial }

/-- A completed stream operation keeps the invariant. -/
theorem WentOn.inv {p : Parser} (hs : s.Inv) (hrun : running s.phase = true) (hpast : s.bits.Past p)
    (h : WentOn (atElement p s) t) (hfailed : t.phase ≠ .failed) (hclosed : t.phase ≠ .closed)
    (hcontrol : ControlOk t) : t.Inv := by
  obtain ⟨hf, ha, -⟩ := h
  have hopen := (running_open hrun).2
  have hcfg : t.cfg = s.cfg := by rw [hf]; rfl
  have hz : t.errReg = 0 := errReg_eq_zero_iff.mpr <| by
    rw [hf]
    exact hs.err_eq_none hrun
  have hhost : t.host = s.host := by rw [hf]; rfl
  have hbits : t.bits = p := by rw [hf]; rfl
  exact {
    cfg_legal := hcfg ▸ hs.cfg_legal
    status := ⟨fun _ => ⟨fun hp => absurd hp hfailed, fun hne => absurd hz hne⟩, by rw [hz]; decide⟩
    call := callOk_of_host_eq hhost hclosed hs.call
    phys_wf := ha.phys_wf hs.phys_wf
    retains := fun _ => hcfg ▸ ha.retains (hs.retains hopen)
    parser := fun _ _ => hbits ▸ ⟨hpast.coherent, hpast.lazy⟩
    arrays := fun _ _ => hcontrol.1
    phases := hcontrol.2 }

theorem streamStep_inv (hs : s.Inv) (hrun : running s.phase = true) (h : streamStep s = .next t) :
    t.Inv := by
  obtain ⟨p, hfault | ⟨hpast, hw, hfailed, hclosed, hcontrol⟩⟩ := streamStep_cases_of_inv hs hrun h
  · exact hfault.inv hs hrun
  · exact hw.inv hs hrun hpast hfailed hclosed hcontrol

/-! ### A host call keeps the invariant -/

/-- What a change of the host's side keeps: the status flags, the host port, the buffer and the counters may
change. -/
theorem State.Inv.of_frame (hs : s.Inv)
    (hf : t = { s with
      errPending := t.errPending, eosSignalled := t.eosSignalled, buf := t.buf, host := t.host
      free := t.free })
    (hcall : CallOk t) (hwf : Memory.wf t.buf.phys = true)
    (hret : s.phase ≠ .closed → Buf.Retains s.cfg.wsize t.buf) : t.Inv := by
  obtain ⟨hlegal, hstatus, -, -, -, hparser, harrays, hphases⟩ := hs
  have hcfg : t.cfg = s.cfg := by rw [hf]
  have hphase : t.phase = s.phase := by rw [hf]
  refine ⟨hcfg ▸ hlegal, ?_, hcall, hwf, fun hp => hcfg ▸ hret (hphase ▸ hp), ?_, ?_, ?_⟩ <;> rw [hf]
  · exact hstatus
  · exact hparser
  · exact harrays
  · exact hphases

/-- Answering a call keeps the invariant. -/
theorem State.Inv.respond (hs : s.Inv) (r : Response) : (respond r s).Inv :=
  hs.of_frame rfl trivial hs.phys_wf hs.retains

/-- Taking the host's next call keeps the invariant. -/
theorem State.Inv.takeCall (hs : s.Inv) (rest : List HostCall) : (takeCall rest s).Inv :=
  hs.of_frame rfl hs.call hs.phys_wf hs.retains

/-- Beginning a read call keeps the invariant, where the call that it would put in progress is one. -/
theorem State.Inv.beginCall (hs : s.Inv) (c : HostCall) (want free : Nat)
    (hcall : CallOk { s with host := { s.host with call := some c, want := want } }) :
    { beginCall c want s with free := free }.Inv := by
  unfold Machine.beginCall
  split
  · exact hs.of_frame rfl hs.call hs.phys_wf hs.retains
  · exact hs.of_frame rfl hcall hs.phys_wf hs.retains

/-- A read call keeps the invariant. -/
theorem ReadOutcome.inv (h : ReadOutcome s t) (hs : s.Inv) (hopen : s.phase ≠ .closed) : t.Inv := by
  have hret := hs.retains hopen
  obtain ⟨hd, hd'⟩ := h.drained_bounds hret.1
  have hf := h.frame
  have hbuf : t.buf = { s.buf with drained := t.buf.drained } := by rw [hf]
  have hcall : CallOk t := by
    cases h with
    | waits => exact hs.call
    | _ => trivial
  have hmono := retainFrom_mono s.cfg.wsize hd (le_refl (Buf.total s.buf))
  have hret' : Buf.Retains s.cfg.wsize t.buf := by
    rw [hbuf]
    exact ⟨hd', hret.2.1.trans hmono, hret.2.2.trans hmono⟩
  exact hs.of_frame (by rw [hf]) hcall (by rw [hbuf]; exact hs.phys_wf) fun _ => hret'

/-- A configuration that passes the check is legal (R341). -/
theorem validate_legal {raw : RawCfg} {cfg : Cfg} (h : validate raw = some cfg) : Cfg.legal cfg = true := by
  unfold validate at h
  split at h
  · obtain ⟨hl, he⟩ := Option.ite_none_right_eq_some.mp h
    cases he
    exact hl
  · cases h

theorem execConstruct_inv {raw : RawCfg} {source : List Byte} (hs : s.Inv)
    (h : execConstruct raw source s = .next t) : t.Inv := by
  unfold execConstruct at h
  split at h <;> cases h
  · exact hs.respond _
  · next cfg hcfg =>
    exact inv_of_fresh source (validate_legal hcfg) rfl rfl rfl rfl rfl rfl trivial

theorem execRead_inv (hs : s.Inv) (h : execRead s = .next t) : t.Inv := by
  obtain ⟨hopen, ho⟩ := execRead_cases h
  exact ho.inv (hs.beginCall .read 1 (Machine.beginCall .read 1 s).free ⟨hopen, rfl⟩) (by simpa using hopen)

theorem execReadbuf_inv {n : Nat} (hs : s.Inv) (h : execReadbuf n s = .next t) : t.Inv := by
  obtain ⟨hopen, rfl | ⟨hn, ho⟩⟩ := execReadbuf_cases h
  · exact (ReadOutcome.count 0 s.free (Nat.zero_le _)).inv hs hopen
  · obtain ⟨hlow, hhigh, -⟩ := readWant_bounds s n hn
    exact ho.inv (hs.beginCall (.readbuf n) _ _ ⟨hopen, hlow, hhigh⟩) (by simpa using hopen)

theorem execClose_inv (hs : s.Inv) (h : execClose s = .next t) : t.Inv := by
  unfold execClose at h
  split at h <;> cases h
  · exact hs.respond _
  · exact {
      cfg_legal := hs.cfg_legal
      status := ⟨fun hp => absurd rfl hp, hs.status.2⟩
      call := trivial
      phys_wf := rfl
      retains := fun hp => absurd rfl hp
      parser := fun _ hp => absurd rfl hp
      arrays := fun _ hp => absurd rfl hp
      phases := trivial }

theorem call_inv (c : HostCall) (hs : s.Inv) (h : exec (callInstr c) s = .next t) : t.Inv := by
  cases c with
  | construct raw source => exact execConstruct_inv hs h
  | read => exact execRead_inv hs h
  | readbuf n => exact execReadbuf_inv hs h
  | close => exact execClose_inv hs h

/-! ### The statements about every step -/

/-- Settles O51: a step is a stream operation, a host call, or nothing. -/
theorem stepKeepsInvariant : Obligations.StepKeepsInvariant := by
  intro s t hs h
  rcases step_cases s with ⟨c, -, hmore, hstep⟩ | ⟨c, -, -, hstep⟩ | ⟨c, rest, -, -, hstep⟩ | ⟨-, -, hstep⟩ <;>
    rw [hstep] at h
  · exact streamStep_inv hs (running_of_needsMore hmore) h
  · exact call_inv c hs h
  · exact call_inv c (hs.takeCall rest) h
  · cases h
    exact hs

/-- Settles O54: a stream operation delivers nothing and only adds to the output, and each host call delivers
the next bytes. -/
theorem stepKeepsDelivery : Obligations.StepKeepsDelivery := by
  intro s t hs hdel h
  rcases step_cases s with ⟨c, -, hmore, hstep⟩ | ⟨c, -, -, hstep⟩ | ⟨c, rest, -, -, hstep⟩ | ⟨-, -, hstep⟩ <;>
    rw [hstep] at h
  · have hrun := running_of_needsMore hmore
    obtain ⟨p, heffect⟩ := streamStep_cases_of_inv hs hrun h
    have heff : StreamEffect (atElement p s) t := by
      rcases heffect with hfault | ⟨-, hw, -⟩
      · exact .inr hfault
      · exact .inl hw
    exact heff.delivered hrun (hs.retains (running_open hrun).2).1 hdel
  · exact call_delivered c hdel h
  · exact call_delivered c (s := takeCall rest s) hdel h
  · cases h
    exact hdel

/-- Settles O58: the parser after the operation is between operations, past the element. -/
theorem bitPointerAdvances : Obligations.BitPointerAdvances := by
  intro s t hs hrun h hfailed
  obtain ⟨p, ⟨e, r, -, rfl⟩ | ⟨hpast, hw, -⟩⟩ := streamStep_cases_of_inv hs hrun h
  · exact absurd rfl hfailed
  · have hbits : t.bits = p := by rw [hw.frame]; rfl
    unfold State.bp
    rw [hbits]
    exact ⟨hpast.bp_le, hpast.input, Parser.ipos_eq_of_lazy hpast.coherent hpast.lazy⟩

end Sys2Proof.Machine
end

section
/-! Proofs about reading what was written: where the stream begins with the bits of a field or of a codeword, the
reader answers the value written and leaves exactly what follows. -/

namespace Sys2Proof

open Sys2Proof.Machine

/-! ### A read that answers a value and leaves a rest -/

/-- The read answers `a`, and `rest` is exactly what the stream still holds after it. -/
def Fetched.Answers {α : Type} (a : α) (rest : Bits) (x : Fetched α) : Prop :=
  ∃ q, x = .ok a q ∧ q.upcoming = rest ∧ q.Coherent

section

variable {α β γ : Type} {p : Parser} {rest rest' : Bits}

theorem Fetched.Answers.ok (a : α) (hc : p.Coherent) (hu : p.upcoming = rest) :
    (Fetched.ok a p).Answers a rest :=
  ⟨p, rfl, hu, hc⟩

/-- Reading on after a read. -/
theorem Fetched.Answers.bind {a : α} {b : β} {x : Fetched α} {f : α → Parser → Fetched β}
    (hx : x.Answers a rest) (hf : ∀ q : Parser, q.Coherent → q.upcoming = rest → (f a q).Answers b rest') :
    (x.bind f).Answers b rest' := by
  obtain ⟨q, rfl, hu, hc⟩ := hx
  exact hf q hc hu

theorem Fetched.bind_assoc (x : Fetched α) (f : α → Parser → Fetched β) (g : β → Parser → Fetched γ) :
    (x.bind f).bind g = x.bind fun a q => (f a q).bind g := by
  cases x <;> rfl

/-! ### Fields (R62, R226) -/

/-- Dropping buffered bits leaves the bits after them. -/
theorem Parser.dropBits_upcoming {n : Nat} (h : n ≤ p.bitcnt) :
    (p.dropBits n).upcoming = p.upcoming.drop n := by
  rw [Parser.upcoming, Parser.upcoming, List.drop_append_of_le_length h]
  rfl

/-- `GetBits` answers the number of the bits that come next. -/
theorem Parser.getBits_answers {w : Bits} (hc : p.Coherent) (hu : p.upcoming = w ++ rest) :
    (p.getBits w.length).Answers (bitsToNat w) rest := by
  obtain ⟨k, hget, hrest, hcnt, hk⟩ := p.getBits_ok w rest hc.eosHonest hu
  refine ⟨_, hget, hrest, Parser.Coherent.dropBits ?_ hcnt⟩
  rcases hk with rfl | ⟨hk, -⟩
  · rwa [Parser.fetched_zero]
  · exact hc.fetched hk

/-- `GetBits` answers the number that a field was written from. -/
theorem Parser.getBits_fieldBits {n v : Nat} (hv : v < 2 ^ n) (hc : p.Coherent)
    (hu : p.upcoming = fieldBits n v ++ rest) : (p.getBits n).Answers v rest := by
  have h := Parser.getBits_answers hc hu
  rwa [length_fieldBits, bitsToNat_fieldBits, Nat.mod_eq_of_lt hv] at h

/-- `GetBits(1)` answers the number of the next bit. -/
theorem Parser.getBits_one {b : Bool} (hc : p.Coherent) (hu : p.upcoming = b :: rest) :
    (p.getBits 1).Answers b.toNat rest :=
  Parser.getBits_answers (w := [b]) hc hu

/-- `GetBits(1)` as a bit answers the next bit. -/
theorem Parser.getBit_answers {b : Bool} (hc : p.Coherent) (hu : p.upcoming = b :: rest) :
    p.getBit.Answers b rest := by
  refine (Parser.getBits_one hc hu).bind fun q hqc hqu => ?_
  have hbit : (b.toNat == 1) = b := by cases b <;> rfl
  rw [hbit]
  exact .ok b hqc hqu

/-! ### Codewords (R63) -/

/-- A codeword is the codeword of its number without the low bit, and then the low bit. -/
theorem codeBits_succ (n v : Nat) : codeBits (n + 1) v = codeBits n (v / 2) ++ [v % 2 == 1] := by
  simp [codeBits, fieldBits]

/-- The codeword of one bit more. -/
theorem codeMore_answers {v : Nat} (hc : p.Coherent) (hu : p.upcoming = (v % 2 == 1) :: rest) :
    (codeMore (v / 2) p).Answers v rest := by
  refine (Parser.getBit_answers hc hu).bind fun q hqc hqu => ?_
  have hv : 2 * (v / 2) + (v % 2 == 1).toNat = v := by
    rcases Nat.mod_two_eq_zero_or_one v with h | h <;> simp [h] <;> omega
  rw [hv]
  exact .ok v hqc hqu

/-- The last bit of a codeword is read last. -/
theorem codeRead_succ (n : Nat) : ∀ (v : Nat) (p : Parser),
    codeRead (n + 1) v p = (codeRead n v p).bind codeMore := by
  induction n with
  | zero =>
    intro v p
    show (codeMore v p).bind (fun v' q => .ok v' q) = codeMore v p
    cases codeMore v p <;> rfl
  | succ n ih =>
    intro v p
    calc codeRead (n + 2) v p
        = (codeMore v p).bind fun v' q => codeRead (n + 1) v' q := rfl
      _ = (codeMore v p).bind fun v' q => (codeRead n v' q).bind codeMore := by simp only [ih]
      _ = (codeRead (n + 1) v p).bind codeMore := (Fetched.bind_assoc _ _ _).symm

/-- Reading as many bits as a codeword has answers its number. -/
theorem codeRead_answers {n v : Nat} (hv : v < 2 ^ n) (hc : p.Coherent)
    (hu : p.upcoming = codeBits n v ++ rest) : (codeRead n 0 p).Answers v rest := by
  induction n generalizing v rest with
  | zero =>
    obtain rfl : v = 0 := by simpa using hv
    exact .ok 0 hc hu
  | succ n ih =>
    rw [codeBits_succ, List.append_assoc] at hu
    have hhigh : v / 2 < 2 ^ n := by
      rw [pow_succ] at hv
      omega
    rw [codeRead_succ]
    exact (ih hhigh hu).bind fun q hqc hqu => codeMore_answers hqc hqu

end

end Sys2Proof
end

section
/-! Proofs about the tree strategy: after `build` every used symbol is the leaf at the end of its codeword, and
`Decode` walks there. -/

namespace Sys2Proof

open Sys2Proof.Machine

/-! ### The codewords of a code (R133, R150) -/

/-- The codeword of a symbol of a code, from its length and the lengths before it (R132). -/
theorem codewordOf_eq {lens : List Nat} {s len : Nat} (h : lens[s]? = some len) (hlen : len ≠ 0) :
    codewordOf lens s = some (codeBits len (firstCode lens len + (lens.take s).count len)) := by
  have hcw := canonicalConstruct_getElem? h
  rw [if_neg hlen] at hcw
  have hzip := List.getElem?_zip_eq_some (z := (_, _)).mpr ⟨h, hcw⟩
  simp only [codewordOf, codewordStrings, List.getElem?_map, hzip, Option.map_some, Option.getD_some]

/-- A symbol with a codeword has the triple from which `build` takes that codeword. -/
theorem exists_triple_of_codewordOf {lens : List Nat} {s : Nat} {w : Bits} (h : codewordOf lens s = some w) :
    ∃ t ∈ codeTriples lens, t.symbol = s ∧ codeBits t.len t.cw = w := by
  rcases hz : (lens.zip (canonicalConstruct lens))[s]? with _ | ⟨len, cw⟩
  · simp [codewordOf, codewordStrings, hz] at h
  · simp only [codewordOf, codewordStrings, List.getElem?_map, hz, Option.map_some, Option.getD_some] at h
    obtain ⟨c, rfl, rfl⟩ := Option.map_eq_some_iff.mp h
    have hmem : ((len, some c), s) ∈ (lens.zip (canonicalConstruct lens)).zipIdx :=
      List.mem_zipIdx_iff_getElem?.mpr hz
    exact ⟨⟨s, len, c⟩, List.mem_filterMap.mpr ⟨_, hmem, rfl⟩, rfl, rfl⟩

/-- A symbol has one triple. -/
theorem codeTriple_eq_of_symbol_eq {lens : List Nat} {t t' : Triple} (h : t ∈ codeTriples lens)
    (h' : t' ∈ codeTriples lens) (hs : t.symbol = t'.symbol) : t = t' := by
  obtain ⟨hl, -, hc⟩ := mem_codeTriples h
  obtain ⟨hl', -, hc'⟩ := mem_codeTriples h'
  have hlen : t.len = t'.len := Option.some.inj (hl.symm.trans (hs ▸ hl'))
  have hcw : t.cw = t'.cw := by rw [hc, hc', hs, hlen]
  cases t
  cases t'
  cases hs
  cases hlen
  cases hcw
  rfl

/-! ### Leaves of a tree (R160) -/

/-- The symbol of the leaf that the bits lead to exactly. -/
def Tree.leafAt : Tree → Bits → Option Nat
  | .leaf s, [] => some s
  | .node z o, b :: w => if b then o.leafAt w else z.leafAt w
  | _, _ => none

/-- A codeword inserted leads to its symbol. -/
theorem Tree.leafAt_treeInsert_self (s : Nat) (w : Bits) : ∀ t : Tree, (treeInsert s w t).leafAt w = some s := by
  induction w with
  | nil => exact fun t => by cases t <;> rfl
  | cons b w ih =>
    intro t
    cases b <;> cases t <;> exact ih _

/-- A codeword inserted leaves the leaf at the end of another one, if neither begins the other. -/
theorem Tree.leafAt_treeInsert_of_not_prefix {s r : Nat} (w : Bits) : ∀ {v : Bits} {t : Tree}, ¬v <+: w →
    ¬w <+: v → t.leafAt v = some r → (treeInsert s w t).leafAt v = some r := by
  induction w with
  | nil => exact fun _ hwv => absurd List.nil_prefix hwv
  | cons b w ih =>
    intro v t hvw hwv ht
    cases v with
    | nil => exact absurd List.nil_prefix hvw
    | cons c v =>
      cases t with
      | empty => cases ht
      | leaf => cases ht
      | node z o =>
        cases b <;> cases c
        · exact ih (by simpa using hvw) (by simpa using hwv) ht
        · exact ht
        · exact ht
        · exact ih (by simpa using hvw) (by simpa using hwv) ht

/-- `decode` of R160 follows the bits of the stream to their leaf. -/
theorem treeWalk_answers {w : Bits} {s : Nat} {rest : Bits} : ∀ {t : Tree} {p : Parser},
    t.leafAt w = some s → p.Coherent → p.upcoming = w ++ rest → (treeWalk t p).Answers s rest := by
  induction w with
  | nil =>
    intro t p ht hc hu
    cases t with
    | leaf r =>
      cases ht
      exact .ok s hc hu
    | _ => cases ht
  | cons b w ih =>
    intro t p ht hc hu
    cases t with
    | node z o =>
      refine (Parser.getBit_answers hc hu).bind fun q hqc hqu => ?_
      cases b
      · exact ih ht hqc hqu
      · exact ih ht hqc hqu
    | _ => cases ht

/-- One more codeword in the tree that `build` makes. -/
theorem treeBuild_append (ts : List Triple) (t : Triple) :
    treeBuild (ts ++ [t]) = treeInsert t.symbol (codeBits t.len t.cw) (treeBuild ts) := by
  simp [treeBuild]

/-- In the tree of a code that meets the Kraft inequality every codeword leads to its symbol. -/
theorem treeBuild_leafAt {lens : List Nat} {maxl : Nat} (hl : ∀ l ∈ lens, l ≤ maxl)
    (hk : kraftSum lens maxl ≤ 2 ^ maxl) {t : Triple} (ht : t ∈ codeTriples lens) :
    (treeBuild (codeTriples lens)).leafAt (codeBits t.len t.cw) = some t.symbol := by
  have hpart : ∀ ts ⊆ codeTriples lens, t ∈ ts →
      (treeBuild ts).leafAt (codeBits t.len t.cw) = some t.symbol := by
    intro ts
    induction ts using List.reverseRecOn with
    | nil => exact fun _ h => nomatch h
    | append_singleton ts u ih =>
      intro hsub hmem
      obtain ⟨hts, hu⟩ := List.append_subset.mp hsub
      rw [treeBuild_append]
      by_cases heq : t.symbol = u.symbol
      · rw [codeTriple_eq_of_symbol_eq ht (hu List.mem_cons_self) heq]
        exact Tree.leafAt_treeInsert_self _ _ _
      · have hold : t ∈ ts := by
          rcases List.mem_append.mp hmem with h | h
          · exact h
          · exact absurd (congrArg Triple.symbol (List.mem_singleton.mp h)) heq
        have hu : u ∈ codeTriples lens := hu List.mem_cons_self
        exact Tree.leafAt_treeInsert_of_not_prefix _ (codeTriples_prefix_free hl hk ht hu heq)
          (codeTriples_prefix_free hl hk hu ht (Ne.symm heq)) (ih hts hold)
  exact hpart _ (List.Subset.refl _) ht

/-! ### `Decode` (R150) -/

/-- A code with a used symbol is not `Empty` (R139). -/
theorem checkHealth_ne_empty {e : EmptyDistCode} {which : Which} {lens : List Nat} {maxl : Nat} {t : Triple}
    (ht : t ∈ codeTriples lens) : checkHealth e which lens maxl ≠ some .empty := by
  obtain ⟨hlen, hne, -⟩ := mem_codeTriples ht
  have hused : usedCount lens ≠ 0 := by
    have : 0 < usedCount lens := List.countP_pos_iff.mpr ⟨t.len, List.mem_of_getElem? hlen, by simpa using hne⟩
    omega
  unfold checkHealth
  rw [if_neg hused]
  split
  · nofun
  · split <;> nofun

/-- With the table of the `TREE` strategy a codeword decodes to its symbol. -/
theorem decodeSym_tree_answers {cfg : Cfg} {params : Params} {which : Which} {lens : List Nat} {maxl s : Nat}
    {t : Table} {p : Parser} {w rest : Bits} (htree : cfg.decoder = .tree) (hl : ∀ l ∈ lens, l ≤ maxl)
    (ht : buildTable cfg params which lens maxl = some t) (hw : codewordOf lens s = some w) (hc : p.Coherent)
    (hu : p.upcoming = w ++ rest) : (decodeSym t p).Answers s rest := by
  obtain ⟨hhealthy, -, hstore⟩ := buildTable_eq_some _ _ _ _ _ _ ht
  obtain ⟨u, hmem, rfl, rfl⟩ := exists_triple_of_codewordOf hw
  have hleaf := treeBuild_leafAt hl (kraftSum_le_of_healthy hhealthy) hmem
  have hdecode : (storeDecode t.maxbits t.store p).Answers u.symbol rest := by
    rw [hstore, buildStore, htree]
    exact treeWalk_answers hleaf hc hu
  unfold decodeSym
  split
  · next hkind =>
    exact absurd (hkind ▸ hhealthy) (checkHealth_ne_empty hmem)
  · exact hdecode
  · exact hdecode

end Sys2Proof
end

section
/-! Proofs about decoding and encoding: each element is read back from its own bits, in every format of R90 to
R101; the operand tables, the fixed codewords and some words written out. -/

namespace Sys2Proof

open Sys2Proof.Machine

variable {p : Parser} {rest rest' : Bits}

/-! ### The fixed-width formats (R91 to R95) -/

/-- The row of a block type (R92). -/
def headerInstr (final : Bool) (type : BitVec 2) : Instr :=
  match type with
  | 0 => .blkStored final
  | 1 => .blkFixed final
  | 2 => .blkDynamic final
  | 3 => .blkReserved final

theorem readHeader_answers (final : Bool) (type : BitVec 2) (hc : p.Coherent)
    (hu : p.upcoming = encodeHeader final type.toNat ++ rest) :
    (readHeader p).Answers (headerInstr final type) rest := by
  refine (Parser.getBits_one hc hu).bind fun q hqc hqu =>
    (Parser.getBits_fieldBits type.isLt hqc hqu).bind fun r hrc hru => ?_
  have hfinal : (final.toNat == 1) = final := by cases final <;> rfl
  rw [hfinal]
  fin_cases type <;> exact .ok _ hrc hru

/-- `AlignByte` skips the pad of a parser between operations (R227). -/
theorem Parser.alignByte_skips_pad (hc : p.Coherent) (hl : p.Lazy)
    (hu : p.upcoming = List.replicate p.bitcnt false ++ rest) :
    p.alignByte.Coherent ∧ p.alignByte.upcoming = rest := by
  have hpad : p.bitcnt % 8 = p.bitcnt := Nat.mod_eq_of_lt (Nat.lt_succ_of_le hl)
  rw [Parser.alignByte, hpad, Parser.dropBits_upcoming le_rfl, hu, List.drop_left' (List.length_replicate ..)]
  exact ⟨hc.dropBits le_rfl, rfl⟩

theorem readStoredHdr_answers (len nlen : BitVec 16) (hc : p.Coherent) (hl : p.Lazy)
    (hu : p.upcoming = List.replicate p.bitcnt false ++ fieldBits 16 len.toNat ++ fieldBits 16 nlen.toNat ++ rest) :
    (readStoredHdr p).Answers (.storedHdr len nlen) rest := by
  simp only [List.append_assoc] at hu
  obtain ⟨hac, hau⟩ := Parser.alignByte_skips_pad hc hl hu
  refine (Parser.getBits_fieldBits len.isLt hac hau).bind fun q hqc hqu =>
    (Parser.getBits_fieldBits nlen.isLt hqc hqu).bind fun r hrc hru => ?_
  simpa using Fetched.Answers.ok (Instr.storedHdr len nlen) hrc hru

theorem readStoredByte_answers (v : Byte) (hc : p.Coherent) (hu : p.upcoming = fieldBits 8 v.toNat ++ rest) :
    (readStoredByte p).Answers (.storedByte v) rest := by
  refine (Parser.getBits_fieldBits v.isLt hc hu).bind fun q hqc hqu => ?_
  simpa using Fetched.Answers.ok (Instr.storedByte v) hqc hqu

theorem readCounts_answers (hlit hdist : BitVec 5) (hclen : BitVec 4) (hc : p.Coherent)
    (hu : p.upcoming = fieldBits 5 hlit.toNat ++ fieldBits 5 hdist.toNat ++ fieldBits 4 hclen.toNat ++ rest) :
    (readCounts p).Answers (.dynCounts hlit hdist hclen) rest := by
  simp only [List.append_assoc] at hu
  refine (Parser.getBits_fieldBits hlit.isLt hc hu).bind fun q hqc hqu =>
    (Parser.getBits_fieldBits hdist.isLt hqc hqu).bind fun r hrc hru =>
      (Parser.getBits_fieldBits hclen.isLt hrc hru).bind fun t htc htu => ?_
  simpa using Fetched.Answers.ok (Instr.dynCounts hlit hdist hclen) htc htu

theorem readCllen_answers (len : BitVec 3) (hc : p.Coherent) (hu : p.upcoming = fieldBits 3 len.toNat ++ rest) :
    (readCllen p).Answers (.dynCllen len) rest := by
  refine (Parser.getBits_fieldBits len.isLt hc hu).bind fun q hqc hqu => ?_
  simpa using Fetched.Answers.ok (Instr.dynCllen len) hqc hqu

/-- What is answered from a parser between operations leaves one between operations. -/
theorem Fetched.Answers.between {α : Type} {P : α → Prop} {a : α} {x : Fetched α} (hx : x.Answers a rest)
    (hy : x.Yields P p) : ∃ q, x = .ok a q ∧ q.upcoming = rest ∧ q.Coherent ∧ q.Lazy := by
  obtain ⟨q, rfl, hu, hc⟩ := hx
  obtain ⟨-, hpast⟩ := hy
  exact ⟨q, rfl, hu, hc, hpast.lazy⟩

/-- Settles O42: each field is read back as written, and a reader between operations stays between
operations. -/
theorem fixedWidthRoundTrip : Obligations.FixedWidthRoundTrip := by
  intro c i rd p w rest hrd hw hpad hc hl hu
  cases i with
  | blkStored final =>
    cases hrd; cases hw
    exact (readHeader_answers final 0 hc hu).between (readHeader_yields hc hl)
  | blkFixed final =>
    cases hrd; cases hw
    exact (readHeader_answers final 1 hc hu).between (readHeader_yields hc hl)
  | blkDynamic final =>
    cases hrd; cases hw
    exact (readHeader_answers final 2 hc hu).between (readHeader_yields hc hl)
  | blkReserved final =>
    cases hrd; cases hw
    exact (readHeader_answers final 3 hc hu).between (readHeader_yields hc hl)
  | storedHdr len nlen =>
    cases hrd; cases hw
    rw [hpad] at hu
    exact (readStoredHdr_answers len nlen hc hl hu).between (readStoredHdr_yields hc hl)
  | storedByte v =>
    cases hrd; cases hw
    exact (readStoredByte_answers v hc hu).between (readStoredByte_yields hc hl)
  | dynCounts hlit hdist hclen =>
    cases hrd; cases hw
    exact (readCounts_answers hlit hdist hclen hc hu).between (readCounts_yields hc hl)
  | dynCllen len =>
    cases hrd; cases hw
    exact (readCllen_answers len hc hu).between (readCllen_yields hc hl)
  | _ => cases hrd

/-! ### Extra fields (R98 to R100) -/

/-- A symbol above 285 has no extra field. -/
theorem lextra_eq_zero {mode : Mode} {s : Nat} (h : 285 < s) : lextra mode s = 0 := by
  have hlong : lengthTable.length ≤ s - 257 := show 28 ≤ s - 257 by omega
  have hrow : lengthRow mode s = none := by
    unfold lengthRow
    rw [if_neg (by omega), if_neg (by omega), List.getElem?_eq_none hlong]
  rw [lextra, hrow]

/-- The symbol of a distance field and its extra bits. -/
theorem distElement_answers {mode : Mode} {d : DistField} (hd : d.wf mode = true) (hc : p.Coherent)
    (hu : p.upcoming = fieldBits (dextra mode d.sym.toNat) d.extra.toNat ++ rest) :
    (distElement mode d.sym.toNat p).Answers d rest := by
  unfold distElement
  rw [if_neg (Nat.not_le_of_lt d.sym.isLt)]
  refine (Parser.getBits_fieldBits (of_decide_eq_true hd) hc hu).bind fun q hqc hqu => ?_
  simpa using Fetched.Answers.ok d hqc hqu

/-! ### The patterns of a Fixed block (R101) -/

theorem readFixedDist_answers {mode : Mode} {d : DistField} (hd : d.wf mode = true) (hc : p.Coherent)
    (hu : p.upcoming = encodeFixedDist mode d ++ rest) : (readFixedDist mode p).Answers d rest := by
  rw [encodeFixedDist, List.append_assoc] at hu
  exact (codeRead_answers d.sym.isLt hc hu).bind fun q hqc hqu => distElement_answers hd hqc hqu

/-- What follows the 7-bit codeword of symbol `256 + n`. -/
theorem fixed256_answers {mode : Mode} {n : BitVec 5} {x : BitVec 4} {d : DistField}
    (hwf : (Instr.fixedLl256To279 n x d).wf mode = true) (hc : p.Coherent)
    (hu : p.upcoming = (if n = 0 then []
      else fieldBits (lextra mode (256 + n.toNat)) x.toNat ++ encodeFixedDist mode d) ++ rest) :
    (fixed256 mode n.toNat p).Answers (.fixedLl256To279 n x d) rest := by
  simp only [Instr.wf, Bool.and_eq_true, decide_eq_true_eq] at hwf
  obtain ⟨⟨-, hx⟩, hd⟩ := hwf
  by_cases hn : n = 0
  · subst hn
    have hx0 : x = 0 := BitVec.eq_of_toNat_eq (Nat.lt_one_iff.mp hx)
    have hd0 : d = { sym := 0, extra := 0 } := of_decide_eq_true hd
    subst hx0 hd0
    exact .ok _ hc hu
  · have hn' : n.toNat ≠ 0 := fun h => hn (BitVec.eq_of_toNat_eq h)
    rw [if_neg hn, List.append_assoc] at hu
    rw [if_neg hn] at hd
    unfold fixed256
    rw [if_neg hn']
    refine (Parser.getBits_fieldBits hx hc hu).bind fun q hqc hqu =>
      (readFixedDist_answers hd hqc hqu).bind fun r hrc hru => ?_
    simpa using Fetched.Answers.ok (Instr.fixedLl256To279 n x d) hrc hru

/-- What follows the 8-bit codeword of symbol `280 + n`. -/
theorem fixed280_answers {mode : Mode} {n : BitVec 3} {x : BitVec 16} {d : DistField}
    (hwf : (Instr.fixedLl280To287 n x d).wf mode = true) (hc : p.Coherent)
    (hu : p.upcoming = (if 6 ≤ n.toNat then []
      else fieldBits (lextra mode (280 + n.toNat)) x.toNat ++ encodeFixedDist mode d) ++ rest) :
    (fixed280 mode n.toNat p).Answers (.fixedLl280To287 n x d) rest := by
  simp only [Instr.wf, Bool.and_eq_true, decide_eq_true_eq] at hwf
  obtain ⟨hx, hd⟩ := hwf
  unfold fixed280
  by_cases hn : 6 ≤ n.toNat
  · rw [lextra_eq_zero (by omega)] at hx
    rw [if_pos hn] at hd hu
    have hx0 : x = 0 := BitVec.eq_of_toNat_eq (Nat.lt_one_iff.mp hx)
    have hd0 : d = { sym := 0, extra := 0 } := of_decide_eq_true hd
    subst hx0 hd0
    rw [if_pos hn]
    simpa using Fetched.Answers.ok (Instr.fixedLl280To287 n 0 { sym := 0, extra := 0 }) hc hu
  · rw [if_neg hn] at hd hu
    rw [List.append_assoc] at hu
    rw [if_neg hn]
    refine (Parser.getBits_fieldBits hx hc hu).bind fun q hqc hqu =>
      (readFixedDist_answers hd hqc hqu).bind fun r hrc hru => ?_
    simpa using Fetched.Answers.ok (Instr.fixedLl280To287 n x d) hrc hru

/-- The patterns of 7 bits: symbols 256 to 279. -/
theorem readFixedRow_256 {mode : Mode} {n : BitVec 5} {x : BitVec 4} {d : DistField}
    (hwf : (Instr.fixedLl256To279 n x d).wf mode = true) (hc : p.Coherent)
    (hu : p.upcoming = codeBits 7 n.toNat ++ (if n = 0 then []
      else fieldBits (lextra mode (256 + n.toNat)) x.toNat ++ encodeFixedDist mode d) ++ rest) :
    (readFixedRow mode p).Answers (.fixedLl256To279 n x d) rest := by
  have hn : n.toNat < 24 := by
    simp only [Instr.wf, Bool.and_eq_true, decide_eq_true_eq] at hwf
    exact hwf.1.1
  rw [List.append_assoc] at hu
  refine (codeRead_answers (hn.trans (by decide)) hc hu).bind fun q hqc hqu => ?_
  rw [if_pos hn]
  exact fixed256_answers hwf hqc hqu

/-- The first 8 bits of a pattern from `00110000` on. -/
theorem readFixedRow_eight {mode : Mode} {v : Nat} {i : Instr} (hv : 48 ≤ v) (hv' : v < 2 ^ 8) (hc : p.Coherent)
    (hu : p.upcoming = codeBits 8 v ++ rest')
    (hnext : ∀ q : Parser, q.Coherent → q.upcoming = rest' →
      (if v < 192 then .ok (.fixedLl0To143 (BitVec.ofNat 8 (v - 48))) q
        else if v < 200 then fixed280 mode (v - 192) q
        else (codeMore v q).bind fun v9 p9 =>
          .ok (.fixedLl144To255 (BitVec.ofNat 8 (v9 - 400 + 144))) p9 : Fetched Instr).Answers i rest) :
    (readFixedRow mode p).Answers i rest := by
  rw [codeBits_succ, List.append_assoc] at hu
  have hseven : v / 2 < 2 ^ 7 := by omega
  refine (codeRead_answers hseven hc hu).bind fun q hqc hqu => ?_
  rw [if_neg (show ¬v / 2 < 24 by omega)]
  exact (codeMore_answers hqc hqu).bind hnext

/-- The patterns of literals 0 to 143. -/
theorem readFixedRow_literal {mode : Mode} {b : Byte} (hb : b.toNat < 144) (hc : p.Coherent)
    (hu : p.upcoming = codeBits 8 (48 + b.toNat) ++ rest) :
    (readFixedRow mode p).Answers (.fixedLl0To143 b) rest := by
  refine readFixedRow_eight (by omega) (by omega) hc hu fun q hqc hqu => ?_
  rw [if_pos (by omega), Nat.add_sub_cancel_left]
  simpa using Fetched.Answers.ok (Instr.fixedLl0To143 b) hqc hqu

/-- The patterns of symbols 280 to 287. -/
theorem readFixedRow_280 {mode : Mode} {n : BitVec 3} {x : BitVec 16} {d : DistField}
    (hwf : (Instr.fixedLl280To287 n x d).wf mode = true) (hc : p.Coherent)
    (hu : p.upcoming = codeBits 8 (192 + n.toNat) ++ (if 6 ≤ n.toNat then []
      else fieldBits (lextra mode (280 + n.toNat)) x.toNat ++ encodeFixedDist mode d) ++ rest) :
    (readFixedRow mode p).Answers (.fixedLl280To287 n x d) rest := by
  have hn := n.isLt
  rw [List.append_assoc] at hu
  refine readFixedRow_eight (by omega) (by omega) hc hu fun q hqc hqu => ?_
  rw [if_neg (by omega), if_pos (by omega), Nat.add_sub_cancel_left]
  exact fixed280_answers hwf hqc hqu

/-- The patterns of literals 144 to 255. -/
theorem readFixedRow_literal_high {mode : Mode} {b : Byte} (hb : 144 ≤ b.toNat) (hc : p.Coherent)
    (hu : p.upcoming = codeBits 9 (400 + b.toNat - 144) ++ rest) :
    (readFixedRow mode p).Answers (.fixedLl144To255 b) rest := by
  have hb' := b.isLt
  rw [codeBits_succ, List.append_assoc] at hu
  refine readFixedRow_eight (by omega) (by omega) hc hu fun q hqc hqu => ?_
  rw [if_neg (by omega), if_neg (by omega)]
  refine (codeMore_answers hqc hqu).bind fun r hrc hru => ?_
  rw [show 400 + b.toNat - 144 - 400 + 144 = b.toNat by omega]
  simpa using Fetched.Answers.ok (Instr.fixedLl144To255 b) hrc hru

/-- What is answered is answered, with the rest left. -/
theorem Fetched.Answers.exists_upcoming {α : Type} {a : α} {x : Fetched α} (hx : x.Answers a rest) :
    ∃ q, x = .ok a q ∧ q.upcoming = rest :=
  hx.imp fun _ ⟨hok, hu, _⟩ => ⟨hok, hu⟩

/-- Settles O43: the patterns of 7, 8 and 9 bits are told apart by their first bits. -/
theorem fixedPatternRoundTrip : Obligations.FixedPatternRoundTrip := by
  intro mode i p w rest hwf hw hc hu
  refine ⟨?_, ?_, ?_, ?_, ?_⟩
  · rintro b rfl
    cases hw
    exact (readFixedRow_literal (of_decide_eq_true hwf) hc hu).exists_upcoming
  · rintro b rfl
    cases hw
    exact (readFixedRow_literal_high (of_decide_eq_true hwf) hc hu).exists_upcoming
  · rintro n x d rfl
    cases hw
    exact (readFixedRow_256 hwf hc hu).exists_upcoming
  · rintro n x d rfl
    cases hw
    exact (readFixedRow_280 hwf hc hu).exists_upcoming
  · rintro d rfl
    cases hw
    exact (readFixedDist_answers hwf hc hu).exists_upcoming

/-! ### Code-length elements (R96, R276) -/

/-- The row of a code-length symbol below 16: its symbol and its encoding, which is the symbol's codeword. -/
theorem clLenRow_spec {i : Instr} {v : BitVec 4} (h : clLenRow i = some v) :
    clLenInstr v.toNat = some i ∧ ∀ e, encode e i = codewordOf e.cl v.toNat := by
  unfold clLenRow at h
  split at h <;> cases h <;> exact ⟨rfl, fun _ => rfl⟩

/-- A code-length row gives one length, repeats the previous one, or runs zeros. -/
theorem clRow_cases {i : Instr} (h : clRow i = true) :
    (∃ v, clLenRow i = some v) ∨ (∃ x, i = .clRep16 x) ∨ (∃ x, i = .clZrep17 x) ∨ ∃ x, i = .clZrep18 x := by
  unfold clRow at h
  split at h
  · exact .inr (.inl ⟨_, rfl⟩)
  · exact .inr (.inr (.inl ⟨_, rfl⟩))
  · exact .inr (.inr (.inr ⟨_, rfl⟩))
  · exact .inl (Option.isSome_iff_exists.mp h)

/-- Nothing follows a code-length symbol below 16. -/
theorem clElement_of_clLenInstr {stops : Bool} {v : Nat} {i : Instr} (h : clLenInstr v = some i) :
    clElement stops v p = .ok i p := by
  unfold clElement
  split
  · cases h
  · cases h
  · cases h
  · rw [h]

/-- A code-length symbol, decoded from its codeword, and then what follows it. -/
theorem readCl_answers {cfg : Cfg} {params : Params} {c : Ctx} {lens : List Nat} {ct : Table} {s : Nat} {w : Bits}
    {i : Instr} (htree : cfg.decoder = .tree) (hl : ∀ l ∈ lens, l ≤ 7)
    (hbuild : buildTable cfg params .cl lens 7 = some ct) (htab : c.cltab = some ct)
    (hw : codewordOf lens s = some w) (hc : p.Coherent) (hu : p.upcoming = w ++ rest')
    (hnext : ∀ q : Parser, q.Coherent → q.upcoming = rest' → (clElement c.rep16Stops s q).Answers i rest) :
    (readCl c p).Answers i rest := by
  unfold readCl
  rw [htab]
  exact (decodeSym_tree_answers htree hl hbuild hw hc hu).bind hnext

/-- Settles O45: the symbol is decoded from its codeword, and its extra field is read as written. -/
theorem codeLengthRoundTrip : Obligations.CodeLengthRoundTrip := by
  intro cfg params c e i ct p w rest htree _ hl hbuild htab hstops hrow hw hc hu
  apply Fetched.Answers.exists_upcoming
  rcases clRow_cases hrow with ⟨v, hv⟩ | ⟨x, rfl⟩ | ⟨x, rfl⟩ | ⟨x, rfl⟩
  · obtain ⟨hinstr, henc⟩ := clLenRow_spec hv
    rw [henc] at hw
    refine readCl_answers htree hl hbuild htab hw hc hu fun q hqc hqu => ?_
    rw [clElement_of_clLenInstr hinstr]
    exact .ok i hqc hqu
  · obtain ⟨u, hcw, rfl⟩ := Option.map_eq_some_iff.mp hw
    rw [List.append_assoc] at hu
    refine readCl_answers htree hl hbuild htab hcw hc hu fun q hqc hqu => ?_
    rw [hstops x rfl]
    refine (Parser.getBits_fieldBits x.isLt hqc hqu).bind fun r hrc hru => ?_
    simpa using Fetched.Answers.ok (Instr.clRep16 x) hrc hru
  · obtain ⟨u, hcw, rfl⟩ := Option.map_eq_some_iff.mp hw
    rw [List.append_assoc] at hu
    refine readCl_answers htree hl hbuild htab hcw hc hu fun q hqc hqu =>
      (Parser.getBits_fieldBits x.isLt hqc hqu).bind fun r hrc hru => ?_
    simpa using Fetched.Answers.ok (Instr.clZrep17 x) hrc hru
  · obtain ⟨u, hcw, rfl⟩ := Option.map_eq_some_iff.mp hw
    rw [List.append_assoc] at hu
    refine readCl_answers htree hl hbuild htab hcw hc hu fun q hqc hqu =>
      (Parser.getBits_fieldBits x.isLt hqc hqu).bind fun r hrc hru => ?_
    simpa using Fetched.Answers.ok (Instr.clZrep18 x) hrc hru

/-! ### Elements of Huffman data (R97 to R100, R300) -/

/-- A match row is the row of its length symbol and its fields, which are in their ranges, and its encoding is
that of its symbol and fields. -/
theorem matchRow_spec {mode : Mode} {i : Instr} {s l : Nat} {d : DistField} (hdata : dataRow mode i = true)
    (hrow : matchRow mode i = some (s, l, d)) (hwf : i.wf mode = true) :
    ∃ x, matchInstr mode s x d = some i ∧ x < 2 ^ lextra mode s ∧ d.wf mode = true ∧
      ∀ e, encode e i = encodeMatch e s x d := by
  cases i with
  | matchL257 | matchL258 | matchL259 | matchL260 | matchL261 | matchL262 | matchL263 | matchL264 =>
    cases hrow
    exact ⟨0, by cases mode <;> rfl, Nat.two_pow_pos _, hwf, fun _ => rfl⟩
  | matchL265 x | matchL266 x | matchL267 x | matchL268 x | matchL269 x | matchL270 x | matchL271 x
  | matchL272 x | matchL273 x | matchL274 x | matchL275 x | matchL276 x | matchL277 x | matchL278 x
  | matchL279 x | matchL280 x | matchL281 x | matchL282 x | matchL283 x | matchL284 x =>
    cases hrow
    exact ⟨x.toNat, by cases mode <;> simp [matchInstr], x.isLt, hwf, fun _ => rfl⟩
  | matchL285 =>
    cases hrow
    cases mode with
    | deflate => exact ⟨0, rfl, Nat.two_pow_pos _, hwf, fun _ => rfl⟩
    | deflate64 => cases hwf
  | matchL285D64 x =>
    cases hrow
    cases mode with
    | deflate => cases hwf
    | deflate64 => exact ⟨x.toNat, by simp [matchInstr], x.isLt, hwf, fun _ => rfl⟩
  | fixedLl256To279 | fixedLl280To287 => cases hdata
  | _ => cases hrow

/-- A row of Huffman data is a literal, an end of block, a symbol without a meaning, or a match. -/
theorem dataRow_cases {mode : Mode} {i : Instr} (h : dataRow mode i = true) :
    (∃ b, i = .lit b) ∨ i = .eob ∨ (∃ n, i = .llInvalid n) ∨ ∃ s l d, matchRow mode i = some (s, l, d) := by
  have hdata := h
  unfold dataRow at h
  split at h
  · exact .inl ⟨_, rfl⟩
  · exact .inr (.inl rfl)
  · exact .inr (.inr (.inl ⟨_, rfl⟩))
  · cases h
  · cases h
  · obtain ⟨⟨s, l, d⟩, hm⟩ := Option.isSome_iff_exists.mp h
    exact .inr (.inr (.inr ⟨s, l, d, hm⟩))

/-- The length symbols (R98). -/
theorem matchInstr_symbol {mode : Mode} {s x : Nat} {d : DistField} {i : Instr}
    (h : matchInstr mode s x d = some i) : 257 ≤ s ∧ s ≤ 285 := by
  unfold matchInstr at h
  split at h <;> cases h <;> decide

/-- What follows a length symbol: its extra bits, then the distance part. -/
theorem dataElement_match_answers {mode : Mode} {dist : Parser → Fetched DistField} {s x : Nat} {d : DistField}
    {i : Instr} (hi : matchInstr mode s x d = some i) (hx : x < 2 ^ lextra mode s) (hc : p.Coherent)
    (hu : p.upcoming = fieldBits (lextra mode s) x ++ rest')
    (hdist : ∀ q : Parser, q.Coherent → q.upcoming = rest' → (dist q).Answers d rest) :
    (dataElement mode dist s p).Answers i rest := by
  obtain ⟨hs, hs'⟩ := matchInstr_symbol hi
  unfold dataElement
  rw [if_neg (by omega), if_neg (by omega), if_pos hs']
  refine (Parser.getBits_fieldBits hx hc hu).bind fun q hqc hqu => (hdist q hqc hqu).bind fun r hrc hru => ?_
  rw [hi]
  exact .ok i hrc hru

/-- Settles O44: the symbol is decoded from its codeword, then the fields of a match are read as written, the
distance symbol from its own codeword. -/
theorem huffmanDataRoundTrip : Obligations.HuffmanDataRoundTrip := by
  intro cfg params c e i lt dt p w rest htree _ _ hll hd hbuild hbuildD hmode hlt hdt hdata hwf hw hc hu
  apply Fetched.Answers.exists_upcoming
  unfold readData
  rw [hmode, hlt, hdt]
  rcases dataRow_cases hdata with ⟨b, rfl⟩ | rfl | ⟨n, rfl⟩ | ⟨s, l, d, hrow⟩
  · refine (decodeSym_tree_answers htree hll hbuild hw hc hu).bind fun q hqc hqu => ?_
    have hb : b.toNat ≤ 255 := Nat.le_of_lt_succ b.isLt
    simpa [dataElement, hb] using Fetched.Answers.ok (Instr.lit b) hqc hqu
  · exact (decodeSym_tree_answers htree hll hbuild hw hc hu).bind fun q hqc hqu => .ok _ hqc hqu
  · refine (decodeSym_tree_answers htree hll hbuild hw hc hu).bind fun q hqc hqu => ?_
    fin_cases n <;> exact .ok _ hqc hqu
  · obtain ⟨x, hinstr, hx, hdwf, henc⟩ := matchRow_spec hdata hrow hwf
    rw [henc] at hw
    obtain ⟨wl, hwl, hw⟩ := Option.bind_eq_some_iff.mp hw
    obtain ⟨wd, hwd, rfl⟩ := Option.map_eq_some_iff.mp hw
    obtain ⟨wc, hwc, rfl⟩ := Option.map_eq_some_iff.mp hwd
    simp only [List.append_assoc] at hu
    exact (decodeSym_tree_answers htree hll hbuild hwl hc hu).bind fun q hqc hqu =>
      dataElement_match_answers hinstr hx hqc hqu fun r hrc hru =>
        (decodeSym_tree_answers htree hd hbuildD hwc hrc hru).bind fun t htc htu =>
          distElement_answers hdwf htc htu

/-! ### The operand tables (R98 to R100) -/

/-- The rows of length symbols 257 to 284 are those of the length table, in both modes. -/
theorem lengthRow_eq_table (mode : Mode) {k : Nat} (hk : k < 28) : lengthRow mode (257 + k) = lengthTable[k]? := by
  unfold lengthRow
  rw [if_neg (by omega), if_neg (by omega), Nat.add_sub_cancel_left]

/-- The rows of distance symbols 0 to 29 are those of the distance table, in both modes. -/
theorem distRow_eq_table (mode : Mode) {c : Nat} (hc : c < 30) : distRow mode c = distTable[c]? := by
  unfold distRow
  split
  · omega
  · omega
  · rfl

/-- Settles O22: the entries of the two tables are compared with the closed forms one by one. -/
theorem operandTables : Obligations.OperandTables := by
  have hlength : ∀ k < 28, lengthTable[k]? = some
      (if k < 8 then (0, k + 3) else (k / 4 - 1, (4 + k % 4) * 2 ^ (k / 4 - 1) + 3)) := by decide
  have hdist : ∀ c < 30, distTable[c]? = some
      (if c < 4 then (0, c + 1) else (c / 2 - 1, (2 + c % 2) * 2 ^ (c / 2 - 1) + 1)) := by decide
  exact ⟨fun mode k hk => (lengthRow_eq_table mode hk).trans (hlength k hk),
    fun mode c hc => (distRow_eq_table mode hc).trans (hdist c hc), rfl, rfl, rfl, rfl, rfl, rfl⟩

/-! ### The fixed codewords (R101, R144, R145) -/

/-- The code length of a fixed literal/length symbol (R144). -/
theorem fixedLiteralLength_getElem? {s : Nat} (hs : s < 288) : fixedLiteralLengthAlphabet[s]? =
    some (if s < 144 then 8 else if s < 256 then 9 else if s < 280 then 7 else 8) := by
  simp only [fixedLiteralLengthAlphabet, List.getElem?_append, List.getElem?_replicate, List.length_append,
    List.length_replicate]
  grind

/-- How many of the first `s` fixed literal/length symbols have each code length. -/
theorem fixedLiteralLength_count (s len : Nat) : (fixedLiteralLengthAlphabet.take s).count len =
    (if len = 8 then min s 144 + min (s - 280) 8 else if len = 9 then min (s - 144) 112
      else if len = 7 then min (s - 256) 24 else 0) := by
  simp only [fixedLiteralLengthAlphabet, List.take_append, List.take_replicate, List.count_append,
    List.count_replicate, List.length_append, List.length_replicate]
  grind

/-- The first fixed codewords of 7, 8 and 9 bits. -/
theorem fixedLiteralLength_firstCode : firstCode fixedLiteralLengthAlphabet 7 = 0 ∧
    firstCode fixedLiteralLengthAlphabet 8 = 48 ∧ firstCode fixedLiteralLengthAlphabet 9 = 400 := by
  decide +kernel

/-- Settles O38: a codeword is the first one of its length plus the number of earlier symbols of that
length. -/
theorem fixedCodewords : Obligations.FixedCodewords := by
  obtain ⟨h7, h8, h9⟩ := fixedLiteralLength_firstCode
  constructor
  · intro s hs
    have hlen := fixedLiteralLength_getElem? hs
    split_ifs at hlen ⊢ with h144 h256 h280
    all_goals rw [codewordOf_eq hlen (by decide), fixedLiteralLength_count]
    · rw [h8, if_pos rfl, show 48 + (min s 144 + min (s - 280) 8) = 0x30 + s by omega]
    · rw [h9, if_neg (by decide), if_pos rfl, show 400 + min (s - 144) 112 = 0x190 + s - 144 by omega]
    · rw [h7, if_neg (by decide), if_neg (by decide), if_pos rfl, show 0 + min (s - 256) 24 = s - 256 by omega]
    · rw [h8, if_pos rfl, show 48 + (min s 144 + min (s - 280) 8) = 0xC0 + s - 280 by omega]
  · intro c hc
    have hfirst : firstCode fixedDistanceAlphabet 5 = 0 := by decide
    have hlen : fixedDistanceAlphabet[c]? = some 5 := by
      rw [fixedDistanceAlphabet, List.getElem?_replicate, if_pos hc]
    have hcount : (fixedDistanceAlphabet.take c).count 5 = c := by
      rw [fixedDistanceAlphabet, List.take_replicate, List.count_replicate_self, min_eq_left hc.le]
    rw [codewordOf_eq hlen (by decide), hfirst, hcount, Nat.zero_add]

/-! ### Words written out (R91 to R95, R101) -/

/-- Settles O33: each word is decoded. -/
theorem decodedWords : Obligations.DecodedWords :=
  ⟨⟨_, rfl, rfl⟩, ⟨_, rfl⟩, ⟨_, rfl, rfl⟩, ⟨_, _, _, rfl, rfl, rfl, rfl⟩, ⟨_, _, _, rfl, rfl, rfl, rfl⟩⟩

end Sys2Proof
end

section
/-! Proofs about the canonical code: which symbols have a codeword and what its digits are, and the code with one
symbol of length 1. -/

namespace Sys2Proof

open Sys2Proof.Machine

/-! ### The digits of a codeword (R131, R133) -/

/-- A field holds the binary digits of its number, the lowest first (R62). -/
theorem fieldBits_getElem? {n k : Nat} (v : Nat) (h : k < n) : (fieldBits n v)[k]? = some (v.testBit k) := by
  induction n generalizing v k with
  | zero => omega
  | succ n ih =>
    cases k with
    | zero => simp [fieldBits, Nat.testBit_zero, beq_eq_decide]
    | succ k => rw [fieldBits, List.getElem?_cons_succ, ih _ (by omega), Nat.testBit_succ]

/-- A codeword is the binary digits of its number, the highest first (R63, R133). -/
theorem codeBits_getElem? {n k : Nat} (v : Nat) (h : k < n) :
    (codeBits n v)[k]? = some (v.testBit (n - 1 - k)) := by
  rw [codeBits, List.getElem?_reverse (by simpa using h), length_fieldBits, fieldBits_getElem? v (by omega)]

/-- A symbol with a number is used, and its number is the first codeword of its length plus the number of earlier
symbols of that length (R131, R132). -/
theorem canonicalConstruct_some {lens : List Nat} {s len cw : Nat} (h : lens[s]? = some len)
    (hcw : (canonicalConstruct lens)[s]? = some (some cw)) :
    len ≠ 0 ∧ cw = firstCode lens len + (lens.take s).count len := by
  rw [canonicalConstruct_getElem? h] at hcw
  split at hcw
  · cases hcw
  · next hz => exact ⟨hz, (Option.some.inj (Option.some.inj hcw)).symm⟩

/-- Two symbols of one length have different numbers of earlier symbols of that length. -/
theorem count_take_inj {lens : List Nat} {s r len : Nat} (hs : lens[s]? = some len) (hr : lens[r]? = some len)
    (h : (lens.take s).count len = (lens.take r).count len) : s = r := by
  rcases lt_trichotomy s r with hlt | heq | hlt
  · exact absurd h (count_take_lt hs hlt).ne
  · exact heq
  · exact absurd h (count_take_lt hr hlt).ne'

/-- Settles O36: a number is the first codeword of its length plus the number of earlier symbols of that length,
and by the Kraft inequality no codeword begins another. -/
theorem codewordsPrefixFree : Obligations.CodewordsPrefixFree := by
  intro lens
  refine ⟨fun s len => canonicalConstruct_getElem?, fun b => ?_, rfl, ?_, ?_, ?_⟩
  · rw [firstCode, Nat.mul_comm]
    rfl
  · intro s len cw hs hcw
    obtain ⟨hz, rfl⟩ := canonicalConstruct_some hs hcw
    exact ⟨hz, _, codewordOf_eq hs hz, length_codeBits _ _, fun k => codeBits_getElem? _⟩
  · intro s r len cw hne hs hr hcs hcr
    obtain ⟨-, hcw⟩ := canonicalConstruct_some hs hcs
    obtain ⟨-, hcw'⟩ := canonicalConstruct_some hr hcr
    exact hne (count_take_inj hs hr (by omega))
  · intro e which maxl k hl hk s r w v hne hw hv
    obtain ⟨t, ht, rfl, rfl⟩ := exists_triple_of_codewordOf hw
    obtain ⟨u, hu, rfl, rfl⟩ := exists_triple_of_codewordOf hv
    exact codeTriples_prefix_free hl (kraftSum_le_of_healthy hk) ht hu hne

/-! ### The code with one symbol of length 1 (R138, R139) -/

/-- Symbol `s` has length 1 and every other symbol is unused. -/
def OnlySymbol (lens : List Nat) (s : Nat) : Prop :=
  lens[s]? = some 1 ∧ ∀ r, r ≠ s → lens.getD r 0 = 0

/-- Such an array is `onlyLens s`, up to unused symbols at its end. -/
theorem onlySymbol_iff {lens : List Nat} {s : Nat} :
    OnlySymbol lens s ↔ ∃ n, lens = onlyLens s ++ List.replicate n 0 := by
  constructor
  · rintro ⟨hs, hother⟩
    obtain ⟨hlt, hone⟩ := List.getElem?_eq_some_iff.mp hs
    have hbefore : lens.take s = List.replicate s 0 := by
      refine List.eq_replicate_iff.mpr ⟨by simpa using hlt.le, fun x hx => ?_⟩
      obtain ⟨r, hr, rfl⟩ := List.mem_take_iff_getElem.mp hx
      simpa [show r < lens.length by omega] using hother r (by omega)
    have hafter : lens.drop (s + 1) = List.replicate (lens.length - (s + 1)) 0 := by
      refine List.eq_replicate_iff.mpr ⟨by simp, fun x hx => ?_⟩
      obtain ⟨r, hr, rfl⟩ := List.mem_drop_iff_getElem.mp hx
      simpa [show s + 1 + r < lens.length by omega] using hother (s + 1 + r) (by omega)
    refine ⟨lens.length - (s + 1), ?_⟩
    rw [← hafter, onlyLens, ← hbefore, show [1] = [lens[s]] by rw [hone],
      List.take_append_getElem hlt, List.take_append_drop]
  · rintro ⟨n, rfl⟩
    refine ⟨by simp [onlyLens], fun r hr => ?_⟩
    rcases Nat.lt_or_gt_of_ne hr with h | h
    · simp [onlyLens, List.getElem?_append, h]
    · have hlen : (onlyLens s).length ≤ r := by simpa [onlyLens] using h
      rw [List.getD_append_right _ _ _ _ hlen, List.getD_eq_getElem?_getD,
        List.getElem?_getD_replicate_default_eq]

/-- One used symbol, of length 1. -/
theorem exists_onlySymbol_iff {lens : List Nat} :
    (∃ s, OnlySymbol lens s) ↔ usedCount lens = 1 ∧ 1 ∈ lens := by
  constructor
  · rintro ⟨s, h⟩
    obtain ⟨n, rfl⟩ := onlySymbol_iff.mp h
    simp [usedCount, onlyLens, List.countP_replicate]
  · rintro ⟨hused, hmem⟩
    obtain ⟨xs, ys, rfl⟩ := List.append_of_mem hmem
    have hzero : xs.countP (· != 0) = 0 ∧ ys.countP (· != 0) = 0 := by
      rw [usedCount, List.countP_append, List.countP_cons, if_pos (by decide)] at hused
      omega
    simp only [List.countP_eq_zero, bne_iff_ne, ne_eq, not_not] at hzero
    obtain ⟨hxs, hys⟩ := hzero
    refine ⟨xs.length, onlySymbol_iff.mpr ⟨ys.length, ?_⟩⟩
    rw [onlyLens, ← List.eq_replicate_of_mem hxs, ← List.eq_replicate_of_mem hys, List.append_assoc]
    rfl

/-- A number that bounds the lengths bounds the longest one. -/
theorem maxLen_le {lens : List Nat} {m : Nat} (h : ∀ l ∈ lens, l ≤ m) : maxLen lens ≤ m :=
  List.foldlRecOn (motive := (· ≤ m)) lens max (Nat.zero_le m) fun _ ha l hl => max_le ha (h l hl)

/-- The triples of a code are in increasing symbol order, so none stands twice (R150). -/
theorem codeTriples_nodup (lens : List Nat) : (codeTriples lens).Nodup := by
  have hidx : ((lens.zip (canonicalConstruct lens)).zipIdx).Pairwise fun a b => a.2 ≠ b.2 := by
    refine List.pairwise_map.mp ?_
    rw [List.zipIdx_map_snd]
    exact List.nodup_range'
  refine hidx.filterMap _ fun a b hne t ht u hu htu => hne ?_
  obtain ⟨_, -, rfl⟩ := Option.map_eq_some_iff.mp ht
  obtain ⟨_, -, rfl⟩ := Option.map_eq_some_iff.mp hu
  exact congrArg Triple.symbol htu

namespace OnlySymbol

variable {lens : List Nat} {s : Nat}

/-- A used symbol is the only one. -/
theorem eq_of_used {r l : Nat} (h : OnlySymbol lens s) (hr : lens[r]? = some l) (hl : l ≠ 0) :
    r = s ∧ l = 1 := by
  have hrs : r = s := by
    by_contra hne
    exact hl (by simpa [List.getD_eq_getElem?_getD, hr] using h.2 r hne)
  exact ⟨hrs, Option.some.inj (hr.symm.trans (hrs ▸ h.1))⟩

theorem maxLen_eq (h : OnlySymbol lens s) : maxLen lens = 1 := by
  refine le_antisymm (maxLen_le fun l hl => ?_) (le_maxLen (List.mem_of_getElem? h.1))
  by_contra hlong
  obtain ⟨r, hr⟩ := List.mem_iff_getElem?.mp hl
  exact hlong (h.eq_of_used hr (by omega)).2.le

/-- The only codeword has half of the weight of a complete code (R138). -/
theorem kraftSum_eq (h : OnlySymbol lens s) (m : Nat) : kraftSum lens m = 2 ^ (m - 1) := by
  obtain ⟨n, rfl⟩ := onlySymbol_iff.mp h
  simp [kraftSum, onlyLens]

/-- The codeword of the only symbol is the first one of 1 bit, the number 0. -/
theorem firstCode_add_count (h : OnlySymbol lens s) : firstCode lens 1 + (lens.take s).count 1 = 0 := by
  obtain ⟨n, rfl⟩ := onlySymbol_iff.mp h
  simp [onlyLens, List.count_replicate, firstCode, lengthCount]

theorem codewordOf_eq (h : OnlySymbol lens s) : codewordOf lens s = some [false] := by
  rw [Sys2Proof.codewordOf_eq h.1 one_ne_zero, h.firstCode_add_count]
  rfl

/-- `build` is given one codeword (R150). -/
theorem codeTriples_eq (h : OnlySymbol lens s) : codeTriples lens = [⟨s, 1, 0⟩] := by
  have hall : ∀ t ∈ codeTriples lens, t = ⟨s, 1, 0⟩ := by
    rintro ⟨r, len, cw⟩ ht
    obtain ⟨hlen, hused, hcw⟩ := mem_codeTriples ht
    dsimp only at hlen hused hcw
    obtain ⟨rfl, rfl⟩ := h.eq_of_used hlen hused
    rw [hcw, h.firstCode_add_count]
  obtain ⟨t, ht, -⟩ := exists_triple_of_codewordOf h.codewordOf_eq
  have hpos : 0 < (codeTriples lens).length := List.length_pos_of_mem ht
  have hrep := List.eq_replicate_of_mem hall
  have hle : (codeTriples lens).length ≤ 1 := List.nodup_replicate.mp (hrep ▸ codeTriples_nodup lens)
  rw [hrep, show (codeTriples lens).length = 1 by omega]
  rfl

end OnlySymbol

/-- The health check answers `Degenerate` exactly for these codes (R138). -/
theorem checkHealth_eq_degenerate_iff {e : EmptyDistCode} {which : Which} {lens : List Nat} {maxl : Nat}
    (hmaxl : 1 ≤ maxl) :
    checkHealth e which lens maxl = some .degenerate ↔ ∃ s, OnlySymbol lens s := by
  constructor
  · intro h
    rw [exists_onlySymbol_iff]
    unfold checkHealth at h
    split at h
    · split at h <;> cases h
    · split at h
      · cases h
      · split at h
        · next hdeg => simpa using hdeg
        · cases h
  · rintro ⟨s, h⟩
    have hkraft : 2 ^ (maxl - 1) ≠ 2 ^ maxl := (Nat.pow_lt_pow_right (by decide) (by omega)).ne
    obtain ⟨hused, hmem⟩ := exists_onlySymbol_iff.mp ⟨s, h⟩
    simp [checkHealth, hused, h.kraftSum_eq, hkraft, hmem]

/-! ### The bit that begins no codeword (R152) -/

/-- A key never put is absent (R157). -/
theorem mapGet_mapPut_emptyMap (back : MapBack) {k k' : Nat} (v : Int) (h : k ≠ k') :
    mapGet (mapPut (emptyMap back) k v) k' = none := by
  cases back with
  | hash =>
    have hlt : ∀ j, j % hashBuckets < hashBuckets := fun j => Nat.mod_lt j (by decide)
    by_cases hbucket : k % hashBuckets = k' % hashBuckets
    · simp [emptyMap, mapPut, mapGet, hbucket, hlt, assocPut, assocGet, h]
    · simp [emptyMap, mapPut, mapGet, hbucket, hlt, assocGet]
  | slotArray =>
    simp only [emptyMap, mapPut, mapGet, List.nil_append, List.getElem?_set_ne h,
      List.getElem?_getD_replicate_default_eq]

section

variable {p : Parser} {b : Bool} {rest : Bits}

/-- A bit without a transition is refused. -/
theorem trieWalk_raises {trans : Nat → Bool → Option GVal} {st : Nat} (fuel : Nat) (hb : trans st b = none)
    (hc : p.Coherent) (hu : p.upcoming = b :: rest) :
    ∃ q, trieWalk trans (fuel + 1) st p = .raised .incompleteCode q := by
  obtain ⟨q, hq, -⟩ := Parser.getBit_answers hc hu
  exact ⟨q, by simp only [trieWalk, hq, Fetched.bind, hb]⟩

/-- In the automaton of one codeword, the bit 0, nothing follows the bit 1, whichever keys the states have. -/
theorem trieWalk_trieBuild_raises {key : Nat → Bool → Nat} (hkey : key 0 false ≠ key 0 true) (back : MapBack)
    (s : Nat) (hc : p.Coherent) (hu : p.upcoming = true :: rest) :
    ∃ q, trieWalk (fun st b => (mapGet (trieBuild key back [⟨s, 1, 0⟩]) (key st b)).map trieValue) 1 0 p =
      .raised .incompleteCode q := by
  have hone : trieBuild key back [⟨s, 1, 0⟩] = mapPut (emptyMap back) (key 0 false) (-(s + 1)) := rfl
  refine trieWalk_raises 0 ?_ hc hu
  rw [hone, mapGet_mapPut_emptyMap back _ hkey, Option.map_none]

/-- In the generic map of one codeword, the bit 0, nothing follows the bit 1. -/
theorem trieWalk_genericBuild_raises (s : Nat) (hc : p.Coherent) (hu : p.upcoming = true :: rest) :
    ∃ q, trieWalk (fun st b => assocGet (genericBuild [⟨s, 1, 0⟩]) (st, b)) 1 0 p =
      .raised .incompleteCode q := by
  have hone : genericBuild [⟨s, 1, 0⟩] = [((0, false), .sym s)] := rfl
  exact trieWalk_raises 0 (by rw [hone]; rfl) hc hu

/-- In the tree of one codeword, the bit 0, nothing hangs at the bit 1. -/
theorem treeWalk_treeBuild_raises (s : Nat) (hc : p.Coherent) (hu : p.upcoming = true :: rest) :
    ∃ q, treeWalk (treeBuild [⟨s, 1, 0⟩]) p = .raised .incompleteCode q := by
  have hone : treeBuild [⟨s, 1, 0⟩] = .node (.leaf s) .empty := rfl
  obtain ⟨q, hq, -⟩ := Parser.getBit_answers hc hu
  exact ⟨q, by simp [hone, treeWalk, hq, Fetched.bind]⟩

/-- The next bit of the stream is the next one buffered, if any is. -/
theorem Parser.bitbuf_eq_cons (hu : p.upcoming = b :: rest) (h : p.bitcnt ≠ 0) :
    ∃ more, p.bitbuf = b :: more := by
  obtain ⟨c, more, hbuf⟩ := List.exists_cons_of_length_pos (Nat.pos_of_ne_zero h)
  rw [Parser.upcoming, hbuf] at hu
  exact ⟨more, hbuf.trans (congrArg (· :: more) (List.cons.inj hu).1)⟩

/-- With no bit buffered and one to come, the source has a byte. -/
theorem Parser.ipos_lt_of_upcoming (hu : p.upcoming = b :: rest) (h : p.bitcnt = 0) :
    p.ipos < p.input.length := by
  by_contra hend
  have hbuf : p.bitbuf = [] := List.length_eq_zero_iff.mp h
  rw [Parser.upcoming, hbuf, List.drop_eq_nil_of_le (Nat.le_of_not_lt hend)] at hu
  cases hu

theorem tableBuild_sole (s : Nat) : tableBuild 1 [⟨s, 1, 0⟩] = [(some s, 1), (none, 0)] := rfl

/-- The entry of the buffered bit 1 is empty in the table of one codeword, the bit 0. -/
theorem tableLoop_buffered_raises {more : Bits} (s fuel : Nat) (h : p.bitbuf = true :: more) :
    tableLoop 1 (tableBuild 1 [⟨s, 1, 0⟩]) (fuel + 1) p = .raised .incompleteCode (p.dropBits 1) := by
  simp [tableBuild_sole, tableLoop, Parser.peekBits, Parser.bitcnt, h, bitsToNat]

/-- With no bit buffered the lookup fetches a byte (R164). -/
theorem tableLoop_unbuffered (s fuel : Nat) (h : p.bitcnt = 0) :
    tableLoop 1 (tableBuild 1 [⟨s, 1, 0⟩]) (fuel + 1) p =
      p.fetchByte.bind fun _ q => tableLoop 1 (tableBuild 1 [⟨s, 1, 0⟩]) fuel q := by
  simp [tableBuild_sole, tableLoop, Parser.peekBits, h, bitsToNat]

/-- The lookup of the bit 1 in the table of one codeword, the bit 0, after a fetch where it is not buffered. -/
theorem tableDecode_tableBuild_raises (s : Nat) (hc : p.Coherent) (hu : p.upcoming = true :: rest) :
    ∃ q, tableDecode 1 (tableBuild 1 [⟨s, 1, 0⟩]) p = .raised .incompleteCode q := by
  rw [tableDecode, if_neg one_ne_zero]
  by_cases hcnt : p.bitcnt = 0
  · have hmore := Parser.ipos_lt_of_upcoming hu hcnt
    have hfetched : (p.fetched 1).bitcnt ≠ 0 := by
      rw [p.fetched_bitcnt 1 hmore]
      omega
    obtain ⟨more, hbuf⟩ := Parser.bitbuf_eq_cons ((p.fetched_upcoming 1).trans hu) hfetched
    rw [tableLoop_unbuffered _ _ hcnt, (p.fetchByte_eq hc.eosHonest).1 hmore]
    exact ⟨_, tableLoop_buffered_raises _ _ hbuf⟩
  · obtain ⟨more, hbuf⟩ := Parser.bitbuf_eq_cons hu hcnt
    exact ⟨_, tableLoop_buffered_raises _ _ hbuf⟩

/-- In every strategy the bit 1 is refused by the code whose one codeword is the bit 0. -/
theorem OnlySymbol.storeDecode_raises {lens : List Nat} {s : Nat} (h : OnlySymbol lens s) (cfg : Cfg)
    (hc : p.Coherent) (hu : p.upcoming = true :: rest) :
    ∃ q, storeDecode (maxLen lens) (buildStore cfg lens) p = .raised .incompleteCode q := by
  rw [buildStore, h.maxLen_eq, h.codeTriples_eq]
  cases cfg.decoder with
  | trieStateSymbol => exact trieWalk_trieBuild_raises (by decide) _ _ hc hu
  | trieSymbolState => exact trieWalk_trieBuild_raises (by decide) _ _ hc hu
  | genericMap => exact trieWalk_genericBuild_raises s hc hu
  | tree => exact treeWalk_treeBuild_raises s hc hu
  | table => exact tableDecode_tableBuild_raises s hc hu

end

/-- Settles O37: such an array has one triple, the codeword 0 of 1 bit, and no strategy has anything at the bit
1. -/
theorem degenerateCode : Obligations.DegenerateCode := by
  intro cfg params which lens maxl hmaxl _
  refine ⟨checkHealth_eq_degenerate_iff hmaxl, fun t s ht hkind hs => ?_⟩
  obtain ⟨hhealthy, hbits, hstore⟩ := buildTable_eq_some _ _ _ _ _ _ ht
  obtain ⟨r, hr⟩ := (checkHealth_eq_degenerate_iff hmaxl).mp (hkind ▸ hhealthy)
  obtain ⟨rfl, -⟩ := hr.eq_of_used hs one_ne_zero
  refine ⟨hr.codewordOf_eq, fun p rest hc hu => ?_⟩
  rw [decodeSym, hkind, hbits, hstore]
  exact hr.storeDecode_raises cfg hc hu

end Sys2Proof
end

section
/-! Proofs about the common contract of the decode tables: what the abstract `Decode` does after each bit, and that
every bit-by-bit walk which knows the codewords does the same; then that the binary tree is such a walk. -/

namespace Sys2Proof

open Sys2Proof.Machine

/-! ### The codewords as a set of bit strings (R131, R133) -/

/-- The codeword of a triple as the stream holds it (R133). -/
abbrev Machine.Triple.word (t : Triple) : Bits :=
  codeBits t.len t.cw

/-- No codeword is empty, and none begins another (R131). -/
def PrefixFree (ts : List Triple) : Prop :=
  ∀ t ∈ ts, t.word ≠ [] ∧ ∀ u ∈ ts, t.word <+: u.word → t = u

/-- The bits begin a codeword and are not yet all of it. -/
def Inner (ts : List Triple) (v : Bits) : Prop :=
  ∃ t ∈ ts, v <+: t.word ∧ v ≠ t.word

/-- The bits begin no codeword. -/
def Outside (ts : List Triple) (v : Bits) : Prop :=
  ∀ t ∈ ts, ¬v <+: t.word

section

variable {ts : List Triple} {t : Triple} {v : Bits}

theorem word_or_inner_or_outside (ts : List Triple) (v : Bits) :
    (∃ t ∈ ts, t.word = v) ∨ Inner ts v ∨ Outside ts v := by
  by_cases hout : Outside ts v
  · exact .inr (.inr hout)
  · obtain ⟨t, ht, hv⟩ : ∃ t ∈ ts, v <+: t.word := by simpa [Outside] using hout
    by_cases heq : v = t.word
    · exact .inl ⟨t, ht, heq.symm⟩
    · exact .inr (.inl ⟨t, ht, hv, heq⟩)

theorem PrefixFree.eq_of_word_eq (h : PrefixFree ts) {u : Triple} (ht : t ∈ ts) (hu : u ∈ ts)
    (heq : t.word = u.word) : t = u :=
  (h t ht).2 u hu (heq ▸ List.prefix_rfl)

/-- No codeword begins bits that are inside another one. -/
theorem PrefixFree.not_prefix_of_inner (h : PrefixFree ts) (hv : Inner ts v) (ht : t ∈ ts) : ¬t.word <+: v := by
  obtain ⟨u, hu, hvu, hne⟩ := hv
  intro htv
  obtain rfl := (h t ht).2 u hu (htv.trans hvu)
  exact hne (hvu.eq_of_length_le htv.length_le)

/-- A part of a prefix-free code is prefix-free. -/
theorem PrefixFree.of_append_left {us : List Triple} (h : PrefixFree (ts ++ us)) : PrefixFree ts := by
  intro t ht
  obtain ⟨hne, hpre⟩ := h t (List.mem_append_left _ ht)
  exact ⟨hne, fun u hu => hpre u (List.mem_append_left _ hu)⟩

theorem PrefixFree.inner_nil (h : PrefixFree ts) (ht : t ∈ ts) : Inner ts [] :=
  ⟨t, ht, List.nil_prefix, (h t ht).1.symm⟩

/-- Bits that are comparable with a codeword, and that no codeword begins, are inside it. -/
theorem inner_of_prefix (ht : t ∈ ts) (hv : v <+: t.word) (hno : ¬t.word <+: v) : Inner ts v :=
  ⟨t, ht, hv, fun heq => hno (heq ▸ List.prefix_rfl)⟩

theorem Inner.length_lt {n : Nat} (hv : Inner ts v) (hn : ∀ t ∈ ts, t.word.length ≤ n) : v.length < n := by
  obtain ⟨t, ht, hpre, hne⟩ := hv
  have := hn t ht
  have := hpre.length_le
  have : v.length ≠ t.word.length := fun h => hne (hpre.eq_of_length h)
  omega

end

/-! ### The abstract `Decode` bit by bit (R150) -/

/-- The symbols with their codewords, as the contract takes them. -/
abbrev symbolWords (ts : List Triple) : List (Nat × Bits) :=
  ts.map fun t => (t.symbol, t.word)

/-- What the abstract `Decode` does when the bits read so far are `v`. -/
def contractNext (ts : List Triple) (fuel : Nat) (v : Bits) (q : Parser) : Fetched Nat :=
  match (symbolWords ts).find? (fun c => c.2 == v) with
  | some c => .ok c.1 q
  | none =>
    if (symbolWords ts).any (fun c => v.isPrefixOf c.2) then contractLoop (symbolWords ts) fuel v q
    else .raised .incompleteCode q

theorem contractLoop_succ (ts : List Triple) (fuel : Nat) (w : Bits) (p : Parser) :
    contractLoop (symbolWords ts) (fuel + 1) w p =
      p.getBit.bind fun b q => contractNext ts fuel (w ++ [b]) q :=
  rfl

section

variable {ts : List Triple} {t : Triple} {v : Bits} (fuel : Nat) (q : Parser)

/-- Bits that are no codeword are not found. -/
theorem find?_symbolWords_eq_none (h : ∀ t ∈ ts, t.word ≠ v) :
    (symbolWords ts).find? (fun c => c.2 == v) = none := by
  simpa using h

theorem contractNext_word (h : PrefixFree ts) (ht : t ∈ ts) :
    contractNext ts fuel t.word q = .ok t.symbol q := by
  have hfound : (symbolWords ts).find? (fun c => c.2 == t.word) = some (t.symbol, t.word) := by
    rcases hf : (symbolWords ts).find? (fun c => c.2 == t.word) with _ | c
    · exact absurd (beq_self_eq_true t.word) (List.find?_eq_none.mp hf _ (List.mem_map_of_mem ht))
    · obtain ⟨u, hu, rfl⟩ := List.mem_map.mp (List.mem_of_find?_eq_some hf)
      have heq : u.word = t.word := by simpa using List.find?_some hf
      obtain rfl := h.eq_of_word_eq hu ht heq
      exact hf
  rw [contractNext, hfound]

theorem contractNext_inner (h : PrefixFree ts) (hv : Inner ts v) :
    contractNext ts fuel v q = contractLoop (symbolWords ts) fuel v q := by
  have hnone := find?_symbolWords_eq_none fun t ht heq => h.not_prefix_of_inner hv ht (heq ▸ List.prefix_rfl)
  obtain ⟨t, ht, hpre, -⟩ := hv
  have hany : (symbolWords ts).any (fun c => v.isPrefixOf c.2) = true :=
    List.any_eq_true.mpr ⟨_, List.mem_map_of_mem ht, List.isPrefixOf_iff_prefix.mpr hpre⟩
  rw [contractNext, hnone]
  exact if_pos hany

theorem contractNext_outside (hv : Outside ts v) : contractNext ts fuel v q = .raised .incompleteCode q := by
  have hnone := find?_symbolWords_eq_none fun t ht (heq : t.word = v) => hv t ht (heq ▸ List.prefix_rfl)
  have hany : ¬(symbolWords ts).any (fun c => v.isPrefixOf c.2) = true := by
    simpa [Outside] using hv
  rw [contractNext, hnone]
  exact if_neg hany

end

/-- A walk that reads bit by bit inside the codewords, answers at the end of one and refuses bits that begin none is
the abstract `Decode`. -/
theorem walk_eq_contractLoop {ts : List Triple} (h : PrefixFree ts) {walk : Nat → Bits → Parser → Fetched Nat}
    (hinner : ∀ fuel v p, Inner ts v →
      walk (fuel + 1) v p = p.getBit.bind fun b q => walk fuel (v ++ [b]) q)
    (hword : ∀ fuel q, ∀ t ∈ ts, walk fuel t.word q = .ok t.symbol q)
    (houtside : ∀ fuel v q, v ≠ [] → Outside ts v → walk fuel v q = .raised .incompleteCode q)
    (fuel : Nat) : ∀ (v : Bits) (p : Parser), Inner ts v → (∀ t ∈ ts, t.word.length ≤ fuel + v.length) →
      walk fuel v p = contractLoop (symbolWords ts) fuel v p := by
  induction fuel with
  | zero =>
    intro v p hv hlen
    exact absurd (hv.length_lt hlen) (by omega)
  | succ fuel ih =>
    intro v p hv hlen
    rw [hinner _ _ _ hv, contractLoop_succ]
    refine congrArg p.getBit.bind (funext₂ fun b q => ?_)
    rcases word_or_inner_or_outside ts (v ++ [b]) with ⟨t, ht, heq⟩ | hin | hout
    · rw [← heq, hword _ _ t ht, contractNext_word _ _ h ht]
    · have hlen' : ∀ t ∈ ts, t.word.length ≤ fuel + (v ++ [b]).length := by
        simpa [Nat.add_assoc, Nat.add_comm 1] using hlen
      rw [contractNext_inner _ _ h hin, ih _ _ hin hlen']
    · rw [houtside _ _ _ (by simp) hout, contractNext_outside _ _ hout]

/-! ### `Decode` of a table of `Build` (R140, R150, R152) -/

theorem Fetched.Agrees.refl {α : Type} (x : Fetched α) : x.Agrees x := by
  cases x with
  | ok a p => exact ⟨rfl, rfl⟩
  | raised e p => rfl
  | rejected r => rfl

/-- A used symbol has a triple. -/
theorem exists_mem_codeTriples {lens : List Nat} (h : usedCount lens ≠ 0) : ∃ t, t ∈ codeTriples lens := by
  obtain ⟨l, hl, hne⟩ := List.countP_pos_iff.mp (Nat.pos_of_ne_zero h)
  obtain ⟨s, hs⟩ := List.mem_iff_getElem?.mp hl
  obtain ⟨t, ht, -⟩ := exists_triple_of_codewordOf (codewordOf_eq hs (by simpa using hne))
  exact ⟨t, ht⟩

/-- A code without a used symbol is `Empty`, if it passes the health check (R139). -/
theorem checkHealth_eq_empty {e : EmptyDistCode} {which : Which} {lens : List Nat} {maxl : Nat} {k : Kind}
    (hu : usedCount lens = 0) (h : checkHealth e which lens maxl = some k) : k = .empty := by
  unfold checkHealth at h
  rw [if_pos hu] at h
  split at h
  · exact (Option.some.inj h).symm
  all_goals cases h

/-- The codewords of an array that meets the Kraft inequality are prefix-free. -/
theorem codeTriples_prefixFree {lens : List Nat} {maxl : Nat} (hl : ∀ l ∈ lens, l ≤ maxl)
    (hk : kraftSum lens maxl ≤ 2 ^ maxl) : PrefixFree (codeTriples lens) := by
  refine fun t ht => ⟨fun hnil => ?_, fun u hu hpre => ?_⟩
  · exact (mem_codeTriples ht).2.1 (by simpa using congrArg List.length hnil)
  · by_contra hne
    exact codeTriples_prefix_free hl hk ht hu (fun hs => hne (codeTriple_eq_of_symbol_eq ht hu hs)) hpre

theorem length_word_le_maxLen {lens : List Nat} {t : Triple} (ht : t ∈ codeTriples lens) :
    t.word.length ≤ maxLen lens := by
  simpa using le_maxLen (List.mem_of_getElem? (mem_codeTriples ht).1)

/-- The contract on a code with a used symbol (R150). -/
theorem contractDecode_eq {lens : List Nat} (hu : usedCount lens ≠ 0) (p : Parser) :
    contractDecode lens p = contractLoop (symbolWords (codeTriples lens)) (maxLen lens) [] p :=
  if_neg hu

/-- It is enough that the strategy's `decode` agrees with the contract on a code with a used symbol. -/
theorem decodeSym_agrees {cfg : Cfg} {params : Params} {which : Which} {lens : List Nat} {maxl : Nat} {t : Table}
    {p : Parser} (ht : buildTable cfg params which lens maxl = some t)
    (h : usedCount lens ≠ 0 →
      (storeDecode (maxLen lens) (buildStore cfg lens) p).Agrees (contractDecode lens p)) :
    (decodeSym t p).Agrees (contractDecode lens p) := by
  obtain ⟨hhealthy, hbits, hstore⟩ := buildTable_eq_some _ _ _ _ _ _ ht
  by_cases hu : usedCount lens = 0
  · rw [decodeSym, checkHealth_eq_empty hu hhealthy, contractDecode, if_pos hu]
    exact .refl _
  · obtain ⟨u, hmem⟩ := exists_mem_codeTriples hu
    rw [decodeSym, hbits, hstore]
    split
    · next hkind => exact absurd (hkind ▸ hhealthy) (checkHealth_ne_empty hmem)
    · exact h hu
    · exact h hu

/-- A walk that knows the codewords of a healthy array is the abstract `Decode` from the first bit on. -/
theorem walk_eq_contractDecode {lens : List Nat} {maxl : Nat} (hl : ∀ l ∈ lens, l ≤ maxl)
    (hk : kraftSum lens maxl ≤ 2 ^ maxl) (hu : usedCount lens ≠ 0) {walk : Nat → Bits → Parser → Fetched Nat}
    (hinner : ∀ fuel v p, Inner (codeTriples lens) v →
      walk (fuel + 1) v p = p.getBit.bind fun b q => walk fuel (v ++ [b]) q)
    (hword : ∀ fuel q, ∀ t ∈ codeTriples lens, walk fuel t.word q = .ok t.symbol q)
    (houtside : ∀ fuel v q, v ≠ [] → Outside (codeTriples lens) v →
      walk fuel v q = .raised .incompleteCode q) (p : Parser) :
    walk (maxLen lens) [] p = contractDecode lens p := by
  have hfree := codeTriples_prefixFree hl hk
  obtain ⟨t, ht⟩ := exists_mem_codeTriples hu
  rw [contractDecode_eq hu]
  exact walk_eq_contractLoop hfree hinner hword houtside _ _ _ (hfree.inner_nil ht)
    fun u hu => length_word_le_maxLen hu

/-! ### The binary tree (R160) -/

/-- The child that a bit leads to. -/
def Tree.child : Tree → Bool → Tree
  | .node z o, b => if b then o else z
  | .leaf _, _ => .empty
  | .empty, _ => .empty

/-- The subtree that the bits lead to. -/
def Tree.subtree (t : Tree) (v : Bits) : Tree :=
  v.foldl Tree.child t

section

variable {s : Nat} {v : Bits}

theorem Tree.subtree_append (t : Tree) (v w : Bits) : t.subtree (v ++ w) = (t.subtree v).subtree w :=
  List.foldl_append

@[simp] theorem Tree.subtree_empty (v : Bits) : Tree.empty.subtree v = .empty := by
  induction v with
  | nil => rfl
  | cons b v ih => exact ih

/-- The leaf at the end of the bits is the subtree there. -/
theorem Tree.subtree_of_leafAt : ∀ {t : Tree}, t.leafAt v = some s → t.subtree v = .leaf s := by
  induction v with
  | nil =>
    intro t h
    cases t with
    | leaf r =>
      cases h
      rfl
    | _ => cases h
  | cons b v ih =>
    intro t h
    cases t with
    | node z o =>
      cases b
      · exact ih h
      · exact ih h
    | _ => cases h

/-- Inserting a codeword changes the child that its first bit leads to, and no other. -/
theorem Tree.child_treeInsert (s : Nat) (b : Bool) (w : Bits) (t : Tree) (c : Bool) :
    (treeInsert s (b :: w) t).child c = if b = c then treeInsert s w (t.child b) else t.child c := by
  cases b <;> cases c <;> cases t <;> rfl

/-- Inserting a codeword leads no bits anywhere that do not begin it. -/
theorem Tree.subtree_treeInsert_of_not_prefix (w : Bits) : ∀ {v : Bits} {t : Tree}, ¬v <+: w →
    t.subtree v = .empty → (treeInsert s w t).subtree v = .empty := by
  induction w with
  | nil =>
    intro v t hv _
    cases v with
    | nil => exact absurd List.nil_prefix hv
    | cons c v => cases t <;> exact Tree.subtree_empty v
  | cons b w ih =>
    intro v t hv ht
    cases v with
    | nil => exact absurd List.nil_prefix hv
    | cons c v =>
      show ((treeInsert s (b :: w) t).child c).subtree v = .empty
      rw [Tree.child_treeInsert]
      split
      · next hbc =>
        subst hbc
        exact ih (by simpa using hv) ht
      · exact ht

/-- The tree that `build` makes leads bits that begin no codeword nowhere. -/
theorem treeBuild_subtree_of_outside {ts : List Triple} (hv : v ≠ []) (hout : Outside ts v) :
    (treeBuild ts).subtree v = .empty := by
  induction ts using List.reverseRecOn with
  | nil =>
    cases v with
    | nil => exact absurd rfl hv
    | cons b v => cases b <;> exact Tree.subtree_empty v
  | append_singleton ts t ih =>
    rw [treeBuild_append]
    exact Tree.subtree_treeInsert_of_not_prefix _ (hout t (by simp))
      (ih fun u hu => hout u (List.mem_append_left _ hu))

/-- Bits that more bits lead on from to a leaf lead to a node. -/
theorem Tree.subtree_eq_node {t : Tree} {w : Bits} (hw : t.subtree w = .leaf s) (hv : v <+: w) (hne : v ≠ w) :
    ∃ z o, t.subtree v = .node z o := by
  obtain ⟨x, rfl⟩ := hv
  rw [Tree.subtree_append] at hw
  cases x with
  | nil => exact absurd (List.append_nil v).symm hne
  | cons b x =>
    cases hsub : t.subtree v with
    | node z o => exact ⟨z, o, rfl⟩
    | leaf r =>
      rw [hsub] at hw
      exact nomatch (Tree.subtree_empty x).symm.trans hw
    | empty =>
      rw [hsub] at hw
      exact nomatch (Tree.subtree_empty x).symm.trans hw

/-- At a node the walk reads a bit and goes on in the child. -/
theorem treeWalk_subtree_node {t z o : Tree} (h : t.subtree v = .node z o) (p : Parser) :
    treeWalk (t.subtree v) p = p.getBit.bind fun b q => treeWalk (t.subtree (v ++ [b])) q := by
  rw [h, treeWalk]
  refine congrArg p.getBit.bind (funext₂ fun b q => ?_)
  rw [Tree.subtree_append, h]
  cases b <;> rfl

end

/-- The walk through the tree of a healthy array is the abstract `Decode`. -/
theorem treeWalk_treeBuild_eq {lens : List Nat} {maxl : Nat} (hl : ∀ l ∈ lens, l ≤ maxl)
    (hk : kraftSum lens maxl ≤ 2 ^ maxl) (hu : usedCount lens ≠ 0) (p : Parser) :
    treeWalk (treeBuild (codeTriples lens)) p = contractDecode lens p := by
  have hleaf : ∀ t ∈ codeTriples lens, (treeBuild (codeTriples lens)).subtree t.word = .leaf t.symbol :=
    fun t ht => Tree.subtree_of_leafAt (treeBuild_leafAt hl hk ht)
  refine walk_eq_contractDecode hl hk hu
    (walk := fun _ v q => treeWalk ((treeBuild (codeTriples lens)).subtree v) q) ?_ ?_ ?_ p
  · rintro fuel v p ⟨t, ht, hpre, hne⟩
    obtain ⟨z, o, hnode⟩ := Tree.subtree_eq_node (hleaf t ht) hpre hne
    exact treeWalk_subtree_node hnode p
  · intro fuel q t ht
    rw [hleaf t ht, treeWalk]
  · intro fuel v q hv hout
    rw [treeBuild_subtree_of_outside hv hout, treeWalk]

/-- Settles O39: the subtree after the bits read so far is a node inside a codeword, its symbol's leaf at its end,
and empty where the bits begin no codeword. -/
theorem treeMeetsContract : Obligations.TreeMeetsContract := by
  intro cfg params which lens maxl t p htree _ hl _ ht
  obtain ⟨hhealthy, -, -⟩ := buildTable_eq_some _ _ _ _ _ _ ht
  refine decodeSym_agrees ht fun hu => ?_
  rw [buildStore, htree, ← treeWalk_treeBuild_eq hl (kraftSum_le_of_healthy hhealthy) hu]
  exact .refl _

end Sys2Proof
end

section
/-! Proofs that a code which passes the health check leaves no gap: every bit string as long as the longest codeword
begins with one where the code is complete, and shorter ones begin with one or are inside one. -/

namespace Sys2Proof

open Sys2Proof.Machine

/-! ### The symbol of a number (R132) -/

/-- A number below the count of a length is the number of earlier symbols of that length for some symbol of it. -/
theorem exists_count_take_eq {lens : List Nat} {b : Nat} : ∀ {k : Nat}, k < lens.count b →
    ∃ s, lens[s]? = some b ∧ (lens.take s).count b = k := by
  induction lens with
  | nil => exact fun h => absurd h (by simp)
  | cons l lens ih =>
    intro k hk
    by_cases hl : l = b
    · subst hl
      cases k with
      | zero => exact ⟨0, rfl, rfl⟩
      | succ k =>
        obtain ⟨s, hs, hcount⟩ := ih (k := k) (by simpa using hk)
        exact ⟨s + 1, hs, by simp [hcount]⟩
    · obtain ⟨s, hs, hcount⟩ := ih (k := k) (by simpa [hl] using hk)
      exact ⟨s + 1, hs, by simp [hcount, hl]⟩

/-- A number in the range of a length is the codeword of a symbol of that length. -/
theorem exists_triple_of_lt {lens : List Nat} {b c : Nat} (hb : b ≠ 0) (hfirst : firstCode lens b ≤ c)
    (hc : c < firstCode lens b + lengthCount lens b) : ∃ t ∈ codeTriples lens, t.word = codeBits b c := by
  have hcount : lengthCount lens b = lens.count b := by simp [lengthCount, hb, List.count]
  obtain ⟨s, hs, htake⟩ := exists_count_take_eq (lens := lens) (b := b) (k := c - firstCode lens b) (by omega)
  obtain ⟨t, ht, -, hword⟩ := exists_triple_of_codewordOf (codewordOf_eq hs hb)
  refine ⟨t, ht, hword.trans ?_⟩
  rw [htake, Nat.add_sub_cancel' hfirst]

/-! ### A complete code (R138) -/

/-- The codewords of a complete code end where the numbers of the longest length end. -/
theorem firstCode_add_lengthCount_maxLen {lens : List Nat} {maxl : Nat} (hl : ∀ l ∈ lens, l ≤ maxl)
    (hk : kraftSum lens maxl = 2 ^ maxl) :
    firstCode lens (maxLen lens) + lengthCount lens (maxLen lens) = 2 ^ maxLen lens := by
  have hle := maxLen_le hl
  have hall : lens.filter (· ≤ maxLen lens) = lens :=
    List.filter_eq_self.mpr fun l hmem => by simpa using le_maxLen hmem
  have hsum := firstCode_mul_two_pow lens maxl (maxLen lens) hle
  have hpow : 2 ^ maxl = 2 ^ maxLen lens * 2 ^ (maxl - maxLen lens) := by rw [← pow_add]; congr 1; omega
  rw [hall, hk, hpow] at hsum
  exact Nat.eq_of_mul_eq_mul_right (Nat.two_pow_pos _) hsum

/-- Bits are the codeword bits of their number. -/
theorem codeBits_codeValue (u : Bits) : codeBits u.length (codeValue u) = u := by
  rw [codeBits, codeValue, ← List.length_reverse, fieldBits_bitsToNat, List.reverse_reverse]

/-- The shortest length at which the first bits of `x` come before the end of the codewords of that length: there
they are one of them. -/
theorem exists_length_in_range (lens : List Nat) {m x : Nat} (hm : x < firstCode lens m + lengthCount lens m) :
    ∃ b ≤ m, b ≠ 0 ∧ firstCode lens b ≤ x / 2 ^ (m - b) ∧
      x / 2 ^ (m - b) < firstCode lens b + lengthCount lens b := by
  have hex : ∃ b, x / 2 ^ (m - b) < firstCode lens b + lengthCount lens b := ⟨m, by simpa using hm⟩
  have hle : Nat.find hex ≤ m := Nat.find_min' hex (by simpa using hm)
  have hspec := Nat.find_spec hex
  refine ⟨Nat.find hex, hle, ?_, ?_, hspec⟩
  · intro h0
    rw [h0] at hspec
    simp [firstCode, lengthCount] at hspec
  · cases hb : Nat.find hex with
    | zero => exact Nat.zero_le _
    | succ c =>
      have hpast : firstCode lens c + lengthCount lens c ≤ x / 2 ^ (m - c) :=
        Nat.le_of_not_lt (Nat.find_min hex (by omega))
      have hpow : 2 ^ (m - c) = 2 ^ (m - (c + 1)) * 2 := by rw [← pow_succ]; congr 1; omega
      rw [hpow, ← Nat.div_div_eq_div_mul] at hpast
      rw [firstCode]
      omega

/-- Every bit string as long as the longest codeword of a complete code begins with a codeword. -/
theorem exists_word_prefix {lens : List Nat} {maxl : Nat} (hl : ∀ l ∈ lens, l ≤ maxl)
    (hk : kraftSum lens maxl = 2 ^ maxl) {u : Bits} (hu : u.length = maxLen lens) :
    ∃ t ∈ codeTriples lens, t.word <+: u := by
  have hlt : codeValue u < firstCode lens (maxLen lens) + lengthCount lens (maxLen lens) := by
    rw [firstCode_add_lengthCount_maxLen hl hk, ← hu, codeValue, ← List.length_reverse]
    exact bitsToNat_lt _
  obtain ⟨b, hb, hne, hfirst, hend⟩ := exists_length_in_range lens hlt
  obtain ⟨t, ht, hword⟩ := exists_triple_of_lt hne hfirst hend
  have htake := codeBits_take (maxLen lens - b) b (codeValue u)
  rw [Nat.sub_add_cancel hb, ← hu, codeBits_codeValue, hu] at htake
  exact ⟨t, ht, by rw [hword, ← htake]; exact List.take_prefix _ _⟩

/-! ### A code that passes the health check (R138, R139) -/

/-- A code with a used symbol that passes is complete, or has one symbol of length 1. -/
theorem complete_or_onlySymbol {e : EmptyDistCode} {which : Which} {lens : List Nat} {maxl : Nat} {k : Kind}
    (hu : usedCount lens ≠ 0) (h : checkHealth e which lens maxl = some k) :
    kraftSum lens maxl = 2 ^ maxl ∨ ∃ s, OnlySymbol lens s := by
  unfold checkHealth at h
  rw [if_neg hu] at h
  split at h
  · next hk => exact .inl hk
  · split at h
    · next hdeg => exact .inr (exists_onlySymbol_iff.mpr (by simpa using hdeg))
    · cases h

/-- Bits shorter than the longest codeword begin with a codeword or begin one. -/
theorem exists_comparable_word {e : EmptyDistCode} {which : Which} {lens : List Nat} {maxl : Nat} {k : Kind}
    (hl : ∀ l ∈ lens, l ≤ maxl) (hu : usedCount lens ≠ 0) (h : checkHealth e which lens maxl = some k) {v : Bits}
    (hv : v.length < maxLen lens) : ∃ t ∈ codeTriples lens, t.word <+: v ∨ v <+: t.word := by
  rcases complete_or_onlySymbol hu h with hk | ⟨s, hs⟩
  · have hlen : (v ++ List.replicate (maxLen lens - v.length) false).length = maxLen lens := by
      simpa using Nat.add_sub_cancel' hv.le
    obtain ⟨t, ht, hpre⟩ := exists_word_prefix hl hk hlen
    exact ⟨t, ht, List.prefix_or_prefix_of_prefix hpre (List.prefix_append _ _)⟩
  · obtain ⟨t, ht⟩ := exists_mem_codeTriples hu
    obtain rfl : v = [] := by
      rw [hs.maxLen_eq] at hv
      exact List.length_eq_zero_iff.mp (by omega)
    exact ⟨t, ht, .inr List.nil_prefix⟩

end Sys2Proof
end

section
/-! Proofs about the lookup table: the abstract `Decode` runs through the bits that are buffered, so that a codeword
among them is found at once and otherwise a byte may be fetched before the next bit is read. -/

namespace Sys2Proof

open Sys2Proof.Machine

/-! ### One bit, buffered or not (R223 to R226) -/

section

variable {p : Parser} {b : Bool} {more : Bits}

theorem Parser.getBit_buffered (h : p.bitbuf = b :: more) : p.getBit = .ok b (p.dropBits 1) := by
  have hcnt : 1 ≤ p.bitcnt := by simp [Parser.bitcnt, h]
  have hbits : p.getBits 1 = .ok b.toNat (p.dropBits 1) := by
    simp [Parser.getBits, Parser.needBits, Parser.needLoop, hcnt, Fetched.bind, Parser.peekBits, h, bitsToNat]
  rw [Parser.getBit, hbits]
  cases b <;> rfl

/-- With nothing buffered, reading a bit takes the next byte. -/
theorem Parser.getBit_fetched (hc : p.Coherent) (h : p.bitbuf = []) (hi : p.ipos < p.input.length) :
    p.getBit = (p.fetched 1).getBit := by
  have hcnt : ¬1 ≤ p.bitcnt := by simp [Parser.bitcnt, h]
  have hcnt' : 1 ≤ (p.fetched 1).bitcnt := by
    rw [p.fetched_bitcnt 1 hi]
    omega
  have hneed : p.needBits 1 = (p.fetched 1).needBits 1 := by
    simp [Parser.needBits, Parser.needLoop, hcnt, hcnt', (p.fetchByte_eq hc.eosHonest).1 hi, Fetched.bind]
  rw [Parser.getBit, Parser.getBit, Parser.getBits, Parser.getBits, hneed]

/-- With nothing buffered and no byte left, reading a bit raises `UnexpectedEndOfStreamError`. -/
theorem Parser.getBit_eos (hc : p.Coherent) (h : p.bitbuf = []) (hi : p.input.length ≤ p.ipos) :
    ∃ q, p.getBit = .raised .unexpectedEndOfStream q := by
  have hup : p.upcoming.length < 1 := by simp [Parser.upcoming, h, List.drop_eq_nil_of_le hi, streamBits]
  obtain ⟨q, hq, -⟩ := p.getBits_eos 1 hc.eosHonest hup
  exact ⟨q, by rw [Parser.getBit, hq]; rfl⟩

@[simp] theorem Parser.dropBits_bitbuf (p : Parser) (n : Nat) : (p.dropBits n).bitbuf = p.bitbuf.drop n :=
  rfl

theorem Parser.dropBits_dropBits (p : Parser) (m n : Nat) : (p.dropBits m).dropBits n = p.dropBits (m + n) := by
  simp [Parser.dropBits]

/-- Dropping buffered bits and taking a byte may change places. -/
theorem Parser.fetched_dropBits {n : Nat} (hn : n ≤ p.bitcnt) (k : Nat) :
    (p.fetched k).dropBits n = (p.dropBits n).fetched k := by
  simp [Parser.fetched, Parser.dropBits, List.drop_append_of_le_length hn]

end

/-! ### The abstract `Decode` on buffered bits (R150) -/

section

variable {ts : List Triple} {p : Parser}

/-- Bits that begin bits inside a codeword are inside it. -/
theorem Inner.of_prefix {u v : Bits} (hv : Inner ts v) (hu : u <+: v) : Inner ts u := by
  obtain ⟨t, ht, hpre, hne⟩ := hv
  refine ⟨t, ht, hu.trans hpre, fun heq => hne (hpre.eq_of_length_le ?_)⟩
  rw [← heq]
  exact hu.length_le

/-- Inside a codeword the contract reads on through the buffered bits. -/
theorem contractLoop_buffered (h : PrefixFree ts) (fuel : Nat) {u : Bits} : ∀ {w : Bits} {p : Parser},
    Inner ts (w ++ u) → u <+: p.bitbuf →
      contractLoop (symbolWords ts) (fuel + u.length) w p =
        contractLoop (symbolWords ts) fuel (w ++ u) (p.dropBits u.length) := by
  induction u with
  | nil =>
    intro w p _ _
    rw [List.append_nil]
    rfl
  | cons b u ih =>
    intro w p hin hpre
    obtain ⟨more, hbuf⟩ := hpre
    have hsplit : w ++ b :: u = (w ++ [b]) ++ u := by simp
    have hrest : u <+: (p.dropBits 1).bitbuf := ⟨more, by rw [Parser.dropBits_bitbuf, ← hbuf]; rfl⟩
    rw [hsplit] at hin ⊢
    calc contractLoop (symbolWords ts) (fuel + u.length + 1) w p
        = contractNext ts (fuel + u.length) (w ++ [b]) (p.dropBits 1) := by
          rw [contractLoop_succ, Parser.getBit_buffered hbuf.symm, Fetched.bind]
      _ = contractLoop (symbolWords ts) (fuel + u.length) (w ++ [b]) (p.dropBits 1) :=
          contractNext_inner _ _ h (hin.of_prefix (List.prefix_append _ _))
      _ = contractLoop (symbolWords ts) fuel (w ++ [b] ++ u) (p.dropBits (u.length + 1)) := by
          rw [ih hin hrest, Parser.dropBits_dropBits, Nat.add_comm 1]

/-- The contract finds a codeword that is buffered. -/
theorem contractLoop_of_buffered_word (h : PrefixFree ts) {t : Triple} (ht : t ∈ ts) (hbuf : t.word <+: p.bitbuf)
    {fuel : Nat} (hfuel : t.len ≤ fuel) :
    contractLoop (symbolWords ts) fuel [] p = .ok t.symbol (p.dropBits t.len) := by
  obtain ⟨u, b, hword⟩ : ∃ u b, t.word = u ++ [b] := (List.eq_nil_or_concat' t.word).resolve_left (h t ht).1
  have hlen : t.len = u.length + 1 := by simpa using congrArg List.length hword
  have hin : Inner ts ([] ++ u) :=
    inner_of_prefix ht ⟨[b], hword.symm⟩ fun hpre => by
      have := hpre.length_le
      simp [hword] at this
  obtain ⟨more, hmore⟩ := hbuf
  have hnext : (p.dropBits u.length).bitbuf = b :: more := by simp [← hmore, hword]
  have hrun := contractLoop_buffered h (fuel - u.length) hin (p := p) ⟨b :: more, by rw [← hmore, hword]; simp⟩
  rw [Nat.sub_add_cancel (by omega)] at hrun
  obtain ⟨f, hf⟩ : ∃ f, fuel - u.length = f + 1 := ⟨fuel - u.length - 1, by omega⟩
  rw [hrun, hf, contractLoop_succ, Parser.getBit_buffered hnext, Fetched.bind, List.nil_append, ← hword,
    contractNext_word _ _ h ht, Parser.dropBits_dropBits, hlen]

/-- The contract refuses buffered bits that are as many as the longest codeword has and begin with none. -/
theorem contractLoop_raises_of_buffered (h : PrefixFree ts) (fuel : Nat) : ∀ {v : Bits} {p : Parser},
    Inner ts v → (∀ t ∈ ts, t.word.length ≤ fuel + v.length) → fuel ≤ p.bitcnt →
      (∀ t ∈ ts, ¬t.word <+: v ++ p.bitbuf) →
      ∃ q, contractLoop (symbolWords ts) fuel v p = .raised .incompleteCode q := by
  induction fuel with
  | zero =>
    intro v p hv hlen
    exact absurd (hv.length_lt hlen) (by omega)
  | succ fuel ih =>
    intro v p _ hlen hcnt hno
    obtain ⟨b, more, hbuf⟩ := List.exists_cons_of_length_pos (l := p.bitbuf) (Nat.zero_lt_of_lt hcnt)
    have hsplit : v ++ p.bitbuf = (v ++ [b]) ++ (p.dropBits 1).bitbuf := by simp [hbuf]
    rw [hsplit] at hno
    rw [contractLoop_succ, Parser.getBit_buffered hbuf, Fetched.bind]
    rcases word_or_inner_or_outside ts (v ++ [b]) with ⟨t, ht, heq⟩ | hin | hout
    · exact absurd (heq ▸ List.prefix_append _ _) (hno t ht)
    · rw [contractNext_inner _ _ h hin]
      refine ih hin ?_ ?_ hno
      · simpa [Nat.add_assoc, Nat.add_comm 1] using hlen
      · rw [Parser.dropBits_bitcnt]
        omega
    · exact ⟨_, contractNext_outside _ _ hout⟩

/-- Where the buffered bits are inside a codeword, the contract comes to the end of the buffer and reads a bit. -/
theorem contractLoop_buffer_end (h : PrefixFree ts) {m : Nat} (hm : p.bitcnt < m) (hin : Inner ts p.bitbuf)
    {q : Parser} (hq : p.bitbuf <+: q.bitbuf) : contractLoop (symbolWords ts) m [] q =
      (q.dropBits p.bitcnt).getBit.bind fun b r => contractNext ts (m - p.bitcnt - 1) (p.bitbuf ++ [b]) r := by
  have hrun := contractLoop_buffered h (w := []) (m - p.bitcnt - 1 + 1) hin hq
  have hfuel : m - p.bitcnt - 1 + 1 + p.bitbuf.length = m := by
    change m - p.bitcnt - 1 + 1 + p.bitcnt = m
    omega
  rwa [hfuel, contractLoop_succ] at hrun

/-- Where the buffered bits are inside a codeword, it makes no difference to the contract whether the next byte has
been taken already. -/
theorem contractLoop_fetched (h : PrefixFree ts) {m : Nat} (hm : p.bitcnt < m) (hin : Inner ts p.bitbuf)
    (hc : p.Coherent) (hi : p.ipos < p.input.length) :
    contractLoop (symbolWords ts) m [] p = contractLoop (symbolWords ts) m [] (p.fetched 1) := by
  have hempty : (p.dropBits p.bitcnt).bitbuf = [] := List.drop_length
  rw [contractLoop_buffer_end h hm hin List.prefix_rfl,
    contractLoop_buffer_end h hm hin (q := p.fetched 1) (List.prefix_append _ _),
    Parser.fetched_dropBits le_rfl, Parser.getBit_fetched (hc.dropBits le_rfl) hempty hi]

/-- Where the buffered bits are inside a codeword and no byte is left, the contract raises
`UnexpectedEndOfStreamError`. -/
theorem contractLoop_eos (h : PrefixFree ts) {m : Nat} (hm : p.bitcnt < m) (hin : Inner ts p.bitbuf)
    (hc : p.Coherent) (hi : p.input.length ≤ p.ipos) :
    ∃ q, contractLoop (symbolWords ts) m [] p = .raised .unexpectedEndOfStream q := by
  have hempty : (p.dropBits p.bitcnt).bitbuf = [] := List.drop_length
  obtain ⟨q, hq⟩ := Parser.getBit_eos (hc.dropBits le_rfl) hempty hi
  exact ⟨q, by rw [contractLoop_buffer_end h hm hin List.prefix_rfl, hq, Fetched.bind]⟩

end

/-! ### The entry for the buffered bits (R163) -/

/-- Bit strings of one length with one number are the same. -/
theorem bitsToNat_inj {u v : Bits} (hlen : u.length = v.length) (h : bitsToNat u = bitsToNat v) : u = v := by
  rw [← fieldBits_bitsToNat u, hlen, h, fieldBits_bitsToNat]

/-- The lookup index of a parser begins with a codeword of at most as many bits exactly if the buffer does. -/
theorem hits_peekBits_iff {t : Triple} {p : Parser} {w : Nat} (h : t.len ≤ min p.bitcnt w) :
    t.Hits (p.peekBits (min p.bitcnt w)) ↔ t.word <+: p.bitbuf := by
  have hlen : t.word.length = (p.bitbuf.take t.len).length := by
    have : t.len ≤ p.bitbuf.length := h.trans (min_le_left _ _)
    simpa using this
  rw [Triple.Hits, p.peekBits_mod h, List.prefix_iff_eq_take, length_codeBits]
  exact ⟨fun hnum => bitsToNat_inj hlen hnum.symm, fun heq => heq ▸ rfl⟩

/-- The entries that `build` makes of an array (R163). -/
abbrev lookupTable (lens : List Nat) : List (Option Nat × Nat) :=
  tableBuild (maxLen lens) (codeTriples lens)

/-- The entry that a lookup finds: that of the codeword which the buffered bits begin with, or, if they begin with
none, an empty one or one of more bits than are buffered. -/
theorem tableBuild_lookup {lens : List Nat} {maxl : Nat} (hl : ∀ l ∈ lens, l ≤ maxl)
    (hk : kraftSum lens maxl ≤ 2 ^ maxl) (p : Parser) :
    (∃ t ∈ codeTriples lens, t.word <+: p.bitbuf ∧
      (lookupTable lens)[p.peekBits (min p.bitcnt (maxLen lens))]? = some (some t.symbol, t.len)) ∨
    ((∀ t ∈ codeTriples lens, ¬t.word <+: p.bitbuf) ∧ ∃ sym n,
      (lookupTable lens)[p.peekBits (min p.bitcnt (maxLen lens))]? = some (sym, n) ∧ n ≤ maxLen lens ∧
        (n = 0 ∨ p.bitcnt < n)) := by
  have hw : ∀ t ∈ codeTriples lens, t.len ≤ maxLen lens := fun t ht => by simpa using length_word_le_maxLen ht
  have hbuffered : ∀ t ∈ codeTriples lens, t.word <+: p.bitbuf → t.len ≤ min p.bitcnt (maxLen lens) :=
    fun t ht hpre => le_min (by simpa [Parser.bitcnt] using hpre.length_le) (hw t ht)
  rcases tableBuild_entry (p.peekBits_lt (maxLen lens)) (codeTriples lens) hw with ⟨hno, he⟩ | ⟨t, ht, hhit, he⟩
  · exact .inr ⟨fun t ht hpre => hno t ht ((hits_peekBits_iff (hbuffered t ht hpre)).mpr hpre),
      none, 0, he, Nat.zero_le _, .inl rfl⟩
  · by_cases hcnt : t.len ≤ p.bitcnt
    · exact .inl ⟨t, ht, (hits_peekBits_iff (le_min hcnt (hw t ht))).mp hhit, he⟩
    · refine .inr ⟨fun u hu hpre => ?_, some t.symbol, t.len, he, hw t ht, .inr (Nat.lt_of_not_le hcnt)⟩
      have hlen := hbuffered u hu hpre
      have hsym := Triple.Hits.symbol_eq hl hk hu ht ((hits_peekBits_iff hlen).mpr hpre) hhit
      rw [codeTriple_eq_of_symbol_eq hu ht hsym] at hlen
      exact hcnt (hlen.trans (min_le_left _ _))

/-! ### One turn of the lookup loop (R164) -/

section

variable {w : Nat} {entries : List (Option Nat × Nat)} {p : Parser} {sym : Option Nat} {n : Nat} (fuel : Nat)

theorem tableLoop_hit {s : Nat} (he : entries[p.peekBits (min p.bitcnt w)]? = some (some s, n)) (hn : n ≠ 0)
    (hcnt : n ≤ p.bitcnt) : tableLoop w entries (fuel + 1) p = .ok s (p.dropBits n) := by
  simp [tableLoop, he, hn, hcnt]

theorem tableLoop_empty_entry (he : entries[p.peekBits (min p.bitcnt w)]? = some (sym, 0)) (hw : w ≤ p.bitcnt) :
    ∃ q, tableLoop w entries (fuel + 1) p = .raised .incompleteCode q := by
  refine ⟨if w = 1 then p.dropBits 1 else p, ?_⟩
  simp only [tableLoop, he, ne_eq, not_true_eq_false, false_and, if_false, true_and, if_pos hw]

theorem tableLoop_miss (he : entries[p.peekBits (min p.bitcnt w)]? = some (sym, n))
    (hn : n = 0 ∨ p.bitcnt < n) (hw : p.bitcnt < w) :
    tableLoop w entries (fuel + 1) p = p.fetchByte.bind fun _ q => tableLoop w entries fuel q := by
  have hmiss : ¬(n ≠ 0 ∧ n ≤ p.bitcnt) := by omega
  have hshort : ¬(n = 0 ∧ w ≤ p.bitcnt) := by omega
  simp only [tableLoop, he, if_neg hmiss, if_neg hshort]

end

/-! ### The lookup loop against the contract (R153, R164) -/

section

variable {e : EmptyDistCode} {which : Which} {lens : List Nat} {maxl : Nat} {k : Kind} {p : Parser}
  (hl : ∀ l ∈ lens, l ≤ maxl) (hu : usedCount lens ≠ 0) (hhealthy : checkHealth e which lens maxl = some k)

include hl hu hhealthy

/-- A codeword found in the table is the one that the contract finds. -/
theorem tableLoop_agrees_of_hit (fuel : Nat) {t : Triple} (ht : t ∈ codeTriples lens) (hbuf : t.word <+: p.bitbuf)
    (he : (lookupTable lens)[p.peekBits (min p.bitcnt (maxLen lens))]? = some (some t.symbol, t.len)) :
    (tableLoop (maxLen lens) (lookupTable lens) (fuel + 1) p).Agrees (contractDecode lens p) := by
  have hcnt : t.len ≤ p.bitcnt := by simpa [Parser.bitcnt] using hbuf.length_le
  have hlen : t.len ≤ maxLen lens := by simpa using length_word_le_maxLen ht
  have hfree := codeTriples_prefixFree hl (kraftSum_le_of_healthy hhealthy)
  obtain ⟨-, hused, -⟩ := mem_codeTriples ht
  rw [tableLoop_hit fuel he hused hcnt, contractDecode_eq hu, contractLoop_of_buffered_word hfree ht hbuf hlen]
  exact .refl _

/-- With as many bits buffered as the longest codeword has, the loop ends as the contract does. -/
theorem tableLoop_agrees_of_full (fuel : Nat) (hw : maxLen lens ≤ p.bitcnt) :
    (tableLoop (maxLen lens) (lookupTable lens) (fuel + 1) p).Agrees (contractDecode lens p) := by
  have hk := kraftSum_le_of_healthy hhealthy
  have hfree := codeTriples_prefixFree hl hk
  obtain ⟨u, hmem⟩ := exists_mem_codeTriples hu
  rcases tableBuild_lookup hl hk p with ⟨t, ht, hbuf, he⟩ | ⟨hno, sym, n, he, hn, hmiss⟩
  · exact tableLoop_agrees_of_hit hl hu hhealthy fuel ht hbuf he
  · obtain rfl : n = 0 := by omega
    obtain ⟨q, hq⟩ := tableLoop_empty_entry fuel he hw
    obtain ⟨r, hr⟩ := contractLoop_raises_of_buffered hfree (maxLen lens) (hfree.inner_nil hmem)
      (fun t ht => length_word_le_maxLen ht) hw hno
    rw [hq, contractDecode_eq hu, hr]
    rfl

/-- The lookup loop in the table of a healthy array agrees with the abstract `Decode`, if it has turns for the bytes
that may have to be taken. -/
theorem tableLoop_agrees (fuel : Nat) : ∀ p : Parser, p.Coherent → maxLen lens ≤ fuel + p.bitcnt →
    (tableLoop (maxLen lens) (lookupTable lens) (fuel + 1) p).Agrees (contractDecode lens p) := by
  have hk := kraftSum_le_of_healthy hhealthy
  have hfree := codeTriples_prefixFree hl hk
  induction fuel with
  | zero => exact fun p _ hw => tableLoop_agrees_of_full hl hu hhealthy 0 (by omega)
  | succ fuel ih =>
    intro p hc hfuel
    by_cases hw : maxLen lens ≤ p.bitcnt
    · exact tableLoop_agrees_of_full hl hu hhealthy _ hw
    · have hw : p.bitcnt < maxLen lens := Nat.lt_of_not_le hw
      rcases tableBuild_lookup hl hk p with ⟨t, ht, hbuf, he⟩ | ⟨hno, sym, n, he, -, hmiss⟩
      · exact tableLoop_agrees_of_hit hl hu hhealthy _ ht hbuf he
      · obtain ⟨t, ht, hcomp⟩ := exists_comparable_word hl hu hhealthy hw
        have hin : Inner (codeTriples lens) p.bitbuf :=
          inner_of_prefix ht (hcomp.resolve_left (hno t ht)) (hno t ht)
        rw [tableLoop_miss _ he hmiss hw]
        by_cases hi : p.ipos < p.input.length
        · rw [(p.fetchByte_eq hc.eosHonest).1 hi, contractDecode_eq hu, contractLoop_fetched hfree hw hin hc hi,
            ← contractDecode_eq hu]
          refine ih _ (hc.fetched hi) ?_
          rw [p.fetched_bitcnt 1 hi]
          omega
        · obtain ⟨q, hq, -⟩ := (p.fetchByte_eq hc.eosHonest).2 (by omega)
          obtain ⟨r, hr⟩ := contractLoop_eos hfree hw hin hc (by omega)
          rw [hq, contractDecode_eq hu, hr]
          rfl

end

/-- Settles O41: the loop finds a codeword as soon as it is buffered, where the contract, reading bit by bit, has
taken the same bytes; until then the buffered bits are inside a codeword, and both take the next byte. -/
theorem tableMeetsContract : Obligations.TableMeetsContract := by
  intro cfg params which lens maxl t p htable _ hl hc ht
  obtain ⟨hhealthy, -, -⟩ := buildTable_eq_some _ _ _ _ _ _ ht
  refine decodeSym_agrees ht fun hu => ?_
  obtain ⟨u, hmem⟩ := exists_mem_codeTriples hu
  have hpos : maxLen lens ≠ 0 := by
    have hlen := length_word_le_maxLen hmem
    obtain ⟨-, hused, -⟩ := mem_codeTriples hmem
    rw [length_codeBits] at hlen
    omega
  rw [buildStore, htable, storeDecode, tableDecode, if_neg hpos]
  exact tableLoop_agrees hl hu hhealthy _ p hc (Nat.le_add_right _ _)

end Sys2Proof
end

section
/-! Proofs about the automaton of the tries and of the generic map: followed along bits it reaches an inner state
inside a codeword and the codeword's symbol at its end, and it has few enough states for the keys of R156. -/

namespace Sys2Proof

open Sys2Proof.Machine

/-! ### Maps (R157, R158) -/

theorem assocGet_assocPut {κ ν : Type} [DecidableEq κ] (m : List (κ × ν)) (k k' : κ) (v : ν) :
    assocGet (assocPut m k v) k' = if k = k' then some v else assocGet m k' := by
  induction m with
  | nil => rfl
  | cons c m ih =>
    obtain ⟨x, y⟩ := c
    by_cases hx : x = k
    · subst hx
      simp only [assocPut, if_pos, assocGet]
      split <;> rfl
    · simp only [assocPut, if_neg hx, assocGet, ih]
      by_cases hx' : x = k'
      · subst hx'
        rw [if_pos rfl, if_neg (Ne.symm hx), if_pos rfl]
      · rw [if_neg hx', if_neg hx']

/-! ### Following bits (R155) -/

/-- The transitions of an automaton, as the generic map holds them. -/
abbrev Transitions :=
  List ((Nat × Bool) × GVal)

/-- One bit further, from an inner state; nothing follows a symbol. -/
def follow (g : Transitions) : Option GVal → Bool → Option GVal
  | some (.next st), b => assocGet g (st, b)
  | some (.sym _), _ => none
  | none, _ => none

theorem assocGet_assocPut_of_ne_state {st st' : Nat} (h : st ≠ st') (g : Transitions) (b c : Bool) (x : GVal) :
    assocGet (assocPut g (st, b) x) (st', c) = assocGet g (st', c) := by
  have hne : (st, b) ≠ (st', c) := fun heq => h (congrArg Prod.fst heq)
  rw [assocGet_assocPut, if_neg hne]

/-- What the bits lead to from the root. -/
def reach (g : Transitions) (v : Bits) : Option GVal :=
  v.foldl (follow g) (some (.next 0))

section

variable {g : Transitions} {v w : Bits}

@[simp] theorem reach_nil (g : Transitions) : reach g [] = some (.next 0) :=
  rfl

theorem reach_concat (g : Transitions) (v : Bits) (b : Bool) : reach g (v ++ [b]) = follow g (reach g v) b :=
  List.foldl_concat ..

theorem reach_append_of_none (h : reach g v = none) (w : Bits) : reach g (v ++ w) = none := by
  induction w using List.reverseRecOn with
  | nil => rwa [List.append_nil]
  | append_singleton w b ih => rw [← List.append_assoc, reach_concat, ih, follow]

/-- Nothing is reached beyond a symbol. -/
theorem reach_of_sym_prefix {s : Nat} (h : reach g v = some (.sym s)) (hv : v <+: w) (hne : v ≠ w) :
    reach g w = none := by
  obtain ⟨x, rfl⟩ := hv
  cases x with
  | nil => exact absurd (List.append_nil v).symm hne
  | cons b x =>
    have hb : reach g (v ++ [b]) = none := by rw [reach_concat, h, follow]
    have := reach_append_of_none hb x
    rwa [List.append_assoc] at this

end

/-! ### The automaton is a tree with its states numbered (R155) -/

/-- The inner states are the numbers below `n`, each reached by exactly one bit string. -/
structure Numbered (g : Transitions) (n : Nat) : Prop where
  unique : ∀ v u st, reach g v = some (.next st) → reach g u = some (.next st) → v = u
  reached : ∀ st, st < n ↔ ∃ v, reach g v = some (.next st)
  source : ∀ st b, n ≤ st → assocGet g (st, b) = none

section

variable {g : Transitions} {n st : Nat} {b : Bool} {w : Bits} {x : GVal}

/-- A transition leads to a state below the bound. -/
theorem Numbered.next_lt (h : Numbered g n) {st' : Nat} (hg : assocGet g (st, b) = some (.next st')) : st' < n := by
  by_cases hst : st < n
  · obtain ⟨v, hv⟩ := (h.reached st).mp hst
    exact (h.reached st').mpr ⟨v ++ [b], by rw [reach_concat, hv, follow, hg]⟩
  · exact absurd (hg.symm.trans (h.source st b (Nat.le_of_not_lt hst))) nofun

theorem numbered_root : Numbered [] 1 := by
  have hroot : ∀ v st, reach [] v = some (.next st) ↔ v = [] ∧ st = 0 := by
    intro v st
    cases v with
    | nil => simp [eq_comm]
    | cons c v =>
      have : reach [] [c] = none := rfl
      simp [show reach [] (c :: v) = none from reach_append_of_none this v]
  refine ⟨fun v u st hv hu => ?_, fun st => ?_, fun _ _ _ => rfl⟩
  · rw [((hroot v st).mp hv).1, ((hroot u st).mp hu).1]
  · simp [hroot]

/-- A new transition from a state, to where nothing follows, adds one bit string and changes no other. -/
theorem reach_assocPut (h : Numbered g n) (hw : reach g w = some (.next st)) (hfree : reach g (w ++ [b]) = none)
    (hx : ∀ c, follow (assocPut g (st, b) x) (some x) c = none) (v : Bits) :
    reach (assocPut g (st, b) x) v = if v = w ++ [b] then some x else reach g v := by
  induction v using List.reverseRecOn with
  | nil => rw [if_neg (by simp)]; rfl
  | append_singleton v c ih =>
    rw [reach_concat, ih, reach_concat]
    split
    · next heq =>
      subst heq
      rw [hx, if_neg (by simp), hfree, follow]
    · by_cases hvw : v = w
      · subst hvw
        rw [hw, follow, follow, assocGet_assocPut]
        simp [eq_comm]
      · have hne : v ++ [c] ≠ w ++ [b] := fun heq => hvw (List.append_inj' heq rfl).1
        rw [if_neg hne]
        cases hv : reach g v with
        | none => rfl
        | some y =>
          cases y with
          | sym s => rfl
          | next st' =>
            have hst : st ≠ st' := fun heq => hvw (h.unique v w _ (heq ▸ hv) hw)
            exact assocGet_assocPut_of_ne_state hst g b c x

/-- The new transition leads to a symbol: no state is added. -/
theorem Numbered.put_sym (h : Numbered g n) (hw : reach g w = some (.next st)) (hfree : reach g (w ++ [b]) = none)
    (s : Nat) : Numbered (assocPut g (st, b) (.sym s)) n := by
  have hreach : ∀ v st', reach (assocPut g (st, b) (.sym s)) v = some (.next st') ↔ reach g v = some (.next st') := by
    intro v st'
    rw [reach_assocPut h hw hfree fun _ => rfl]
    split
    · next heq => simp [heq, hfree]
    · rfl
  have hst : st < n := (h.reached st).mpr ⟨w, hw⟩
  refine ⟨fun v u st' => ?_, fun st' => ?_, fun st' c hst' => ?_⟩
  · simpa only [hreach] using h.unique v u st'
  · simpa only [hreach] using h.reached st'
  · rw [assocGet_assocPut_of_ne_state (by omega), h.source st' c hst']

/-- Nothing follows the next free state. -/
theorem Numbered.follow_fresh (h : Numbered g n) (hst : st < n) (x : GVal) (c : Bool) :
    follow (assocPut g (st, b) x) (some (.next n)) c = none := by
  rw [follow, assocGet_assocPut_of_ne_state hst.ne, h.source n c le_rfl]

/-- The new transition leads to a new state, the next number. -/
theorem Numbered.put_next (h : Numbered g n) (hw : reach g w = some (.next st)) (hfree : reach g (w ++ [b]) = none) :
    Numbered (assocPut g (st, b) (.next n)) (n + 1) := by
  have hst : st < n := (h.reached st).mpr ⟨w, hw⟩
  have hreach : ∀ v st', reach (assocPut g (st, b) (.next n)) v = some (.next st') ↔
      v = w ++ [b] ∧ st' = n ∨ reach g v = some (.next st') := by
    intro v st'
    rw [reach_assocPut h hw hfree (h.follow_fresh hst _)]
    split
    · next heq => simp [heq, hfree, eq_comm]
    · next hne => simp [hne]
  have hold : ∀ v, reach g v ≠ some (.next n) := fun v hv => absurd ((h.reached n).mpr ⟨v, hv⟩) (lt_irrefl n)
  refine ⟨fun v u st' hv hu => ?_, fun st' => ?_, fun st' c hst' => ?_⟩
  · rcases (hreach v st').mp hv with ⟨hvw, rfl⟩ | hv'
    · rcases (hreach u _).mp hu with ⟨huw, -⟩ | hu'
      · exact hvw.trans huw.symm
      · exact absurd hu' (hold u)
    · rcases (hreach u st').mp hu with ⟨-, rfl⟩ | hu'
      · exact absurd hv' (hold v)
      · exact h.unique v u st' hv' hu'
  · simp only [hreach, exists_or, exists_eq_left, ← h.reached st']
    omega
  · rw [assocGet_assocPut_of_ne_state (by omega), h.source st' c (by omega)]

end

/-! ### One codeword of `build` (R155, R158) -/

/-- The automaton `r.1` with `r.2` states is `g` with the codeword `c` of symbol `s` added: bits that do not begin `c`
lead where they led. -/
structure Inserted (g : Transitions) (s : Nat) (c : Bits) (r : Transitions × Nat) : Prop where
  numbered : Numbered r.1 r.2
  word : reach r.1 c = some (.sym s)
  other : ∀ v, ¬v <+: c → reach r.1 v = reach g v

/-- The loop of `build`, from the state that the first bits of a codeword lead to. -/
theorem genericInsert_inserted (s : Nat) (rest : Bits) : ∀ {w : Bits} {st n : Nat} {g : Transitions}, rest ≠ [] →
    Numbered g n → reach g w = some (.next st) → reach g (w ++ rest) = none →
    (∀ v s', v <+: w ++ rest → reach g v ≠ some (.sym s')) →
    Inserted g s (w ++ rest) (genericInsert s rest st (g, n)) := by
  induction rest with
  | nil => exact fun h => absurd rfl h
  | cons b rest ih =>
    intro w st n g _ hnum hw hnone hsym
    cases rest with
    | nil =>
      have hput := reach_assocPut hnum hw hnone (x := .sym s) fun _ => rfl
      refine ⟨hnum.put_sym hw hnone s, ?_, fun v hv => ?_⟩
      · exact (hput _).trans (if_pos rfl)
      · have hne : v ≠ w ++ [b] := fun heq => hv (heq ▸ List.prefix_rfl)
        exact (hput v).trans (if_neg hne)
    | cons b' rest =>
      have hsplit : w ++ b :: b' :: rest = (w ++ [b]) ++ b' :: rest := by simp
      have hb : reach g (w ++ [b]) = assocGet g (st, b) := by rw [reach_concat, hw, follow]
      rw [hsplit] at hnone hsym ⊢
      cases hget : assocGet g (st, b) with
      | some y =>
        cases y with
        | next st' =>
          rw [genericInsert, hget]
          exact ih (by simp) hnum (hb.trans hget) hnone hsym
        | sym s' => exact absurd (hb.trans hget) (hsym _ _ (List.prefix_append _ _))
      | none =>
        have hfree := hb.trans hget
        have hst : st < n := (hnum.reached st).mpr ⟨w, hw⟩
        have hput := reach_assocPut hnum hw hfree (hnum.follow_fresh hst (.next n))
        have hrest : (w ++ [b]) ++ b' :: rest ≠ w ++ [b] := by simp
        have hins := ih (by simp) (hnum.put_next hw hfree) ((hput _).trans (if_pos rfl))
          ((hput _).trans ((if_neg hrest).trans hnone)) fun v s' hv => by
            rw [hput]
            split
            · nofun
            · exact hsym v s' hv
        rw [genericInsert, hget]
        refine ⟨hins.numbered, hins.word, fun v hv => ?_⟩
        have hne : v ≠ w ++ [b] := fun heq => hv (heq ▸ List.prefix_append _ _)
        rw [hins.other v hv, hput, if_neg hne]

/-! ### All codewords (R155, R158) -/

/-- The loop of `build` over the codewords: the automaton and how many states it has. -/
def genericFold (ts : List Triple) : Transitions × Nat :=
  ts.foldl (fun acc t => genericInsert t.symbol t.word 0 acc) ([], 1)

theorem genericBuild_eq (ts : List Triple) : genericBuild ts = (genericFold ts).1 :=
  rfl

theorem genericFold_append (ts : List Triple) (t : Triple) :
    genericFold (ts ++ [t]) = genericInsert t.symbol t.word 0 (genericFold ts) :=
  List.foldl_concat ..

/-- Every codeword leads to its symbol, and bits that begin none lead nowhere. -/
structure Spells (g : Transitions) (ts : List Triple) : Prop where
  word : ∀ t ∈ ts, reach g t.word = some (.sym t.symbol)
  outside : ∀ v, v ≠ [] → Outside ts v → reach g v = none

section

variable {g : Transitions} {ts : List Triple} {v : Bits} {s : Nat}

/-- Bits that lead to a symbol are a codeword. -/
theorem Spells.exists_word_eq (h : Spells g ts) (hv : reach g v = some (.sym s)) : ∃ t ∈ ts, t.word = v := by
  rcases word_or_inner_or_outside ts v with hword | ⟨t, ht, hpre, hne⟩ | hout
  · exact hword
  · exact absurd ((reach_of_sym_prefix hv hpre hne).symm.trans (h.word t ht)) nofun
  · by_cases hnil : v = []
    · subst hnil
      cases hv
    · exact absurd ((h.outside v hnil hout).symm.trans hv) nofun

/-- Bits inside a codeword lead to an inner state. -/
theorem Spells.reach_inner (h : Spells g ts) (hfree : PrefixFree ts) (hv : Inner ts v) :
    ∃ st, reach g v = some (.next st) := by
  cases hr : reach g v with
  | none =>
    obtain ⟨t, ht, ⟨x, hx⟩, -⟩ := hv
    exact absurd ((hx ▸ reach_append_of_none hr x).symm.trans (h.word t ht)) nofun
  | some y =>
    cases y with
    | next st => exact ⟨st, rfl⟩
    | sym s =>
      obtain ⟨t, ht, rfl⟩ := h.exists_word_eq hr
      exact absurd List.prefix_rfl (hfree.not_prefix_of_inner hv ht)

/-- Bits that lead to an inner state are inside a codeword, if there is one. -/
theorem Spells.inner_of_reach (h : Spells g ts) (hfree : PrefixFree ts) (hne : ts ≠ []) {st : Nat}
    (hv : reach g v = some (.next st)) : Inner ts v := by
  obtain ⟨u, hu⟩ := List.exists_mem_of_ne_nil ts hne
  by_cases hnil : v = []
  · exact hnil ▸ hfree.inner_nil hu
  · rcases word_or_inner_or_outside ts v with ⟨t, ht, rfl⟩ | hin | hout
    · exact absurd ((h.word t ht).symm.trans hv) nofun
    · exact hin
    · exact absurd ((h.outside v hnil hout).symm.trans hv) nofun

end

/-- A prefix-free code is spelled by the automaton that `build` makes. -/
theorem genericFold_spells {ts : List Triple} : PrefixFree ts → ts.Nodup →
    Numbered (genericFold ts).1 (genericFold ts).2 ∧ Spells (genericFold ts).1 ts := by
  induction ts using List.reverseRecOn with
  | nil =>
    refine fun _ _ => ⟨numbered_root, ⟨nofun, fun v hv _ => ?_⟩⟩
    cases v with
    | nil => exact absurd rfl hv
    | cons b v => exact reach_append_of_none (v := [b]) rfl v
  | append_singleton ts t ih =>
    intro hfree hnodup
    have hold : ∀ u ∈ ts, u ∈ ts ++ [t] := fun u hu => List.mem_append_left _ hu
    have hnew : t ∈ ts ++ [t] := by simp
    have hnotin : t ∉ ts := fun hmem => (List.nodup_append.mp hnodup).2.2 t hmem t (by simp) rfl
    have hleft : ∀ u ∈ ts, ¬u.word <+: t.word := fun u hu hpre =>
      hnotin ((hfree u (hold u hu)).2 t hnew hpre ▸ hu)
    have hright : Outside ts t.word := fun u hu hpre => hnotin ((hfree t hnew).2 u (hold u hu) hpre ▸ hu)
    obtain ⟨hnum, hspells⟩ := ih hfree.of_append_left (List.nodup_append.mp hnodup).1
    have hne : t.word ≠ [] := (hfree t hnew).1
    have hins := genericInsert_inserted t.symbol t.word (w := []) hne hnum (reach_nil _)
      (hspells.outside _ hne hright) fun v s' hpre hv => by
        obtain ⟨u, hu, rfl⟩ := hspells.exists_word_eq hv
        exact hleft u hu hpre
    rw [genericFold_append]
    refine ⟨hins.numbered, fun u hu => ?_, fun v hv hout => ?_⟩
    · rcases List.mem_append.mp hu with hu | hu
      · exact (hins.other _ (hleft u hu)).trans (hspells.word u hu)
      · rw [List.mem_singleton.mp hu]
        exact hins.word
    · exact (hins.other v (hout t hnew)).trans (hspells.outside v hv fun u hu => hout u (hold u hu))

end Sys2Proof
end

section
/-! Proofs about the tries and the generic map: the automaton of a healthy array has few enough states for the keys of
R156, so each map holds its transitions, and the walk through them is the abstract `Decode`. -/

namespace Sys2Proof

open Sys2Proof.Machine

/-! ### How many states there are (R156) -/

/-- The bits before the last bit 1. -/
def stem (w : Bits) : Bits :=
  (w.rdropWhile (!·)).dropLast

theorem stem_append (v : Bits) (k : Nat) : stem (v ++ true :: List.replicate k false) = v := by
  have hsplit : v ++ true :: List.replicate k false = (v ++ [true]) ++ List.replicate k false := by simp
  rw [stem, hsplit]
  induction k with
  | zero => simp
  | succ k ih =>
    rw [List.replicate_succ', ← List.append_assoc, List.rdropWhile_concat]
    simpa using ih (by simp)

/-- In a complete code, bits inside a codeword are followed in some codeword by one bit 1 and then by bits 0 only. -/
theorem exists_word_eq_append_replicate {lens : List Nat} {maxl : Nat} (hl : ∀ l ∈ lens, l ≤ maxl)
    (hk : kraftSum lens maxl = 2 ^ maxl) {v : Bits} (hv : Inner (codeTriples lens) v) :
    ∃ t ∈ codeTriples lens, ∃ k, t.word = v ++ true :: List.replicate k false := by
  have hlt := hv.length_lt fun t ht => length_word_le_maxLen ht
  have hlen : (v ++ true :: List.replicate (maxLen lens - v.length - 1) false).length = maxLen lens := by
    simp only [List.length_append, List.length_cons, List.length_replicate]
    omega
  obtain ⟨t, ht, hpre⟩ := exists_word_prefix hl hk hlen
  have hno := (codeTriples_prefixFree hl hk.le).not_prefix_of_inner hv ht
  obtain ⟨x, hx⟩ := (List.prefix_or_prefix_of_prefix hpre (List.prefix_append _ _)).resolve_left hno
  rw [← hx, List.prefix_append_right_inj] at hpre
  cases x with
  | nil => exact absurd (hx ▸ by simp) hno
  | cons b x =>
    obtain ⟨rfl, hrest⟩ := List.cons_prefix_cons.mp hpre
    exact ⟨t, ht, x.length, by rw [← hx, ← (List.prefix_replicate_iff.mp hrest).2]⟩

/-- The state that the stem of a codeword leads to. -/
def stemState (g : Transitions) (t : Triple) : Nat :=
  match reach g (stem t.word) with
  | some (.next st) => st
  | _ => 0

theorem length_codeTriples_le (lens : List Nat) : (codeTriples lens).length ≤ lens.length := by
  refine (List.length_filterMap_le _ _).trans ?_
  rw [List.length_zipIdx, List.length_zip]
  exact min_le_left _ _

/-- The automaton of a healthy array has at most as many states as the array has symbols: of a complete code every
state is the stem of a codeword, and the code with one symbol of length 1 has the root only. -/
theorem genericFold_states_le {e : EmptyDistCode} {which : Which} {lens : List Nat} {maxl : Nat} {k : Kind}
    (hl : ∀ l ∈ lens, l ≤ maxl) (hu : usedCount lens ≠ 0) (hhealthy : checkHealth e which lens maxl = some k) :
    (genericFold (codeTriples lens)).2 ≤ lens.length := by
  have hfree := codeTriples_prefixFree hl (kraftSum_le_of_healthy hhealthy)
  obtain ⟨u, hmem⟩ := exists_mem_codeTriples hu
  refine le_trans ?_ (length_codeTriples_le lens)
  rcases complete_or_onlySymbol hu hhealthy with hk | ⟨s, hs⟩
  · obtain ⟨hnum, hspells⟩ := genericFold_spells hfree (codeTriples_nodup lens)
    have hsub : List.range (genericFold (codeTriples lens)).2 ⊆
        (codeTriples lens).map (stemState (genericFold (codeTriples lens)).1) := by
      intro st hst
      obtain ⟨v, hv⟩ := (hnum.reached st).mp (List.mem_range.mp hst)
      obtain ⟨t, ht, k, hword⟩ := exists_word_eq_append_replicate hl hk
        (hspells.inner_of_reach hfree (List.ne_nil_of_mem hmem) hv)
      exact List.mem_map.mpr ⟨t, ht, by rw [stemState, hword, stem_append, hv]⟩
    simpa using (List.nodup_range.subperm hsub).length_le
  · rw [hs.codeTriples_eq]
    exact le_rfl

/-! ### The walk through the automaton (R155, R158) -/

/-- The walk after the bits that led to `x`. -/
def visit (trans : Nat → Bool → Option GVal) (fuel : Nat) (x : Option GVal) (q : Parser) : Fetched Nat :=
  match x with
  | none => .raised .incompleteCode q
  | some (.sym s) => .ok s q
  | some (.next st) => trieWalk trans fuel st q

theorem trieWalk_succ (trans : Nat → Bool → Option GVal) (fuel st : Nat) (p : Parser) :
    trieWalk trans (fuel + 1) st p = p.getBit.bind fun b q => visit trans fuel (trans st b) q := by
  rw [trieWalk]
  refine congrArg p.getBit.bind (funext₂ fun b q => ?_)
  cases trans st b with
  | none => rfl
  | some x => cases x <;> rfl

/-- The walk through the automaton of a healthy array is the abstract `Decode`. -/
theorem trieWalk_genericFold_eq {lens : List Nat} {maxl : Nat} (hl : ∀ l ∈ lens, l ≤ maxl)
    (hk : kraftSum lens maxl ≤ 2 ^ maxl) (hu : usedCount lens ≠ 0) (p : Parser) :
    trieWalk (fun st b => assocGet (genericFold (codeTriples lens)).1 (st, b)) (maxLen lens) 0 p =
      contractDecode lens p := by
  have hfree := codeTriples_prefixFree hl hk
  obtain ⟨-, hspells⟩ := genericFold_spells hfree (codeTriples_nodup lens)
  refine walk_eq_contractDecode hl hk hu
    (walk := fun fuel v q => visit (fun st b => assocGet (genericFold (codeTriples lens)).1 (st, b)) fuel
      (reach (genericFold (codeTriples lens)).1 v) q) ?_ ?_ ?_ p
  · intro fuel v p hv
    obtain ⟨st, hst⟩ := hspells.reach_inner hfree hv
    simp only [reach_concat, hst, follow]
    rw [visit, trieWalk_succ]
  · intro fuel q t ht
    rw [hspells.word t ht, visit]
  · intro fuel v q hne hout
    rw [hspells.outside v hne hout, visit]

/-- Two walks are the same where the transitions from the states in use are. -/
theorem trieWalk_congr {trans trans' : Nat → Bool → Option GVal} {n : Nat}
    (heq : ∀ st < n, ∀ b, trans st b = trans' st b)
    (hnext : ∀ st b st', trans' st b = some (.next st') → st' < n) (fuel : Nat) :
    ∀ (st : Nat) (p : Parser), st < n → trieWalk trans fuel st p = trieWalk trans' fuel st p := by
  induction fuel with
  | zero => exact fun _ _ _ => rfl
  | succ fuel ih =>
    intro st p hst
    rw [trieWalk_succ, trieWalk_succ]
    refine congrArg p.getBit.bind (funext₂ fun b q => ?_)
    rw [heq st hst b]
    cases hx : trans' st b with
    | none => rfl
    | some x =>
      cases x with
      | sym s => rfl
      | next st' => exact ih st' q (hnext st b st' hx)

/-! ### The sparse map (R157) -/

/-- A hash backing has its number of buckets. -/
def IntMap.Sized : IntMap → Prop
  | .hash buckets => buckets.length = hashBuckets
  | .slots _ => True

theorem emptyMap_sized (back : MapBack) : (emptyMap back).Sized := by
  cases back
  · exact List.length_replicate
  · trivial

theorem mapPut_sized {m : IntMap} (h : m.Sized) (k : Nat) (v : Int) : (mapPut m k v).Sized := by
  cases m with
  | hash buckets => exact List.length_set.trans h
  | slots cells => trivial

theorem mapGet_emptyMap (back : MapBack) (k : Nat) : mapGet (emptyMap back) k = none := by
  cases back with
  | hash =>
    have hlt : k % hashBuckets < hashBuckets := Nat.mod_lt k (by decide)
    simp [emptyMap, mapGet, hlt, assocGet]
  | slotArray => rfl

/-- A read after a write (R157). -/
theorem mapGet_mapPut {m : IntMap} (h : m.Sized) (k k' : Nat) (v : Int) :
    mapGet (mapPut m k v) k' = if k = k' then some v else mapGet m k' := by
  cases m with
  | hash buckets =>
    have hlt : k % hashBuckets < buckets.length := by
      rw [show buckets.length = hashBuckets from h]
      exact Nat.mod_lt k (by decide)
    by_cases hbucket : k % hashBuckets = k' % hashBuckets
    · have hlt' : k' % hashBuckets < buckets.length := hbucket ▸ hlt
      simp [mapPut, mapGet, hbucket, hlt', assocGet_assocPut]
    · have hne : k ≠ k' := fun heq => hbucket (heq ▸ rfl)
      simp [mapPut, mapGet, List.getD_eq_getElem?_getD, List.getElem?_set_ne hbucket, hne]
  | slots cells =>
    have hlen : k < (cells ++ List.replicate (k + 1 - cells.length) none).length := by
      simp only [List.length_append, List.length_replicate]
      omega
    by_cases hkk : k = k'
    · subst hkk
      simp only [mapPut, mapGet, List.getElem?_set_self hlen, if_pos, Option.getD_some]
    · simp only [mapPut, mapGet, List.getElem?_set_ne hkk, if_neg hkk]
      rcases Nat.lt_or_ge k' cells.length with hlt | hge
      · rw [List.getElem?_append_left hlt]
      · rw [List.getElem?_append_right hge, List.getElem?_eq_none hge, List.getElem?_getD_replicate_default_eq]
        rfl

/-! ### A trie's map holds the automaton (R155, R156) -/

/-- A key tells the states in use, and their two bits, apart. -/
def KeyInjective (key : Nat → Bool → Nat) : Prop :=
  ∀ st st' b b', st < nstateMax → st' < nstateMax → key st b = key st' b' → st = st' ∧ b = b'

theorem boolToNat_injective : Function.Injective Bool.toNat := by
  decide

theorem keyStateSymbol_injective : KeyInjective keyStateSymbol := by
  intro st st' b b' _ _ h
  unfold keyStateSymbol at h
  have hb := b.toNat_lt
  have hb' := b'.toNat_lt
  exact ⟨by omega, boolToNat_injective (by omega)⟩

theorem keySymbolState_injective : KeyInjective keySymbolState := by
  intro st st' b b' hst hst' h
  unfold keySymbolState at h
  unfold nstateMax at h hst hst'
  exact ⟨by omega, boolToNat_injective (by omega)⟩

/-- The map holds, at the keys of the states in use, the transitions of the automaton. -/
structure Holds (key : Nat → Bool → Nat) (m : IntMap) (g : Transitions) : Prop where
  sized : m.Sized
  get : ∀ st < nstateMax, ∀ b, (mapGet m (key st b)).map trieValue = assocGet g (st, b)

section

variable {key : Nat → Bool → Nat} {m : IntMap} {g : Transitions}

theorem Holds.put (hkey : KeyInjective key) (h : Holds key m g) {st : Nat} (hst : st < nstateMax) (b : Bool)
    {v : Int} {x : GVal} (hv : trieValue v = x) : Holds key (mapPut m (key st b) v) (assocPut g (st, b) x) := by
  refine ⟨mapPut_sized h.sized _ _, fun st' hst' b' => ?_⟩
  have hiff : key st b = key st' b' ↔ (st, b) = (st', b') := by
    refine ⟨fun heq => ?_, fun heq => ?_⟩
    · obtain ⟨rfl, rfl⟩ := hkey _ _ _ _ hst hst' heq
      rfl
    · cases heq
      rfl
  rw [mapGet_mapPut h.sized, assocGet_assocPut]
  simp only [hiff]
  split
  · exact congrArg some hv
  · exact h.get st' hst' b'

theorem trieValue_leaf (s : Nat) : trieValue (-(s + 1 : Int)) = .sym s := by
  rw [trieValue, if_pos (by omega)]
  congr 1
  omega

theorem trieValue_state (n : Nat) : trieValue n = .next n := by
  rw [trieValue, if_neg (by omega)]
  rfl

/-- The state that a map's entry continues with: a leaf's is 0 (R155). -/
theorem toNat_of_trieValue {v : Int} : (∀ st, trieValue v = .next st → v.toNat = st) ∧
    ∀ s, trieValue v = .sym s → v.toNat = 0 := by
  unfold trieValue
  split
  · exact ⟨nofun, fun s _ => by omega⟩
  · exact ⟨fun st h => by cases h; rfl, nofun⟩

/-- Inserting a codeword adds states. -/
theorem le_genericInsert (s : Nat) (w : Bits) : ∀ (st n : Nat) (g : Transitions),
    n ≤ (genericInsert s w st (g, n)).2 := by
  induction w with
  | nil => exact fun _ _ _ => le_rfl
  | cons b w ih =>
    intro st n g
    cases w with
    | nil => exact le_rfl
    | cons b' w =>
      rw [genericInsert]
      split
      · exact ih _ _ _
      · exact ih _ _ _
      · exact (Nat.le_succ n).trans (ih _ _ _)

/-- The loop of a trie's `build` does to its map what that of the generic map does to the automaton. -/
theorem trieInsert_holds (hkey : KeyInjective key) (s : Nat) (w : Bits) : ∀ {st n : Nat} {m : IntMap}
    {g : Transitions}, Holds key m g → st < nstateMax →
    (∀ st b st', assocGet g (st, b) = some (.next st') → st' < nstateMax) →
    (genericInsert s w st (g, n)).2 ≤ nstateMax →
    Holds key (trieInsert key s w st (m, n)).1 (genericInsert s w st (g, n)).1 ∧
      (trieInsert key s w st (m, n)).2 = (genericInsert s w st (g, n)).2 := by
  induction w with
  | nil => exact fun h _ _ _ => ⟨h, rfl⟩
  | cons b w ih =>
    intro st n m g h hst hnext hmax
    cases w with
    | nil => exact ⟨h.put hkey hst b (trieValue_leaf s), rfl⟩
    | cons b' w =>
      have hget := h.get st hst b
      rw [genericInsert] at hmax ⊢
      rw [trieInsert]
      cases hm : mapGet m (key st b) with
      | none =>
        rw [hm, Option.map_none] at hget
        rw [← hget] at hmax ⊢
        have hn : n < nstateMax := (le_genericInsert _ _ _ _ _).trans hmax
        refine ih (h.put hkey hst b (trieValue_state n)) hn (fun st₁ b₁ st' hg => ?_) hmax
        rw [assocGet_assocPut] at hg
        split at hg
        · cases hg
          exact hn
        · exact hnext _ _ _ hg
      | some v =>
        rw [hm, Option.map_some] at hget
        rw [← hget] at hmax ⊢
        cases hv : trieValue v with
        | next st' =>
          rw [hv] at hget hmax
          simp only [toNat_of_trieValue.1 st' hv]
          exact ih h (hnext _ _ _ hget.symm) hnext hmax
        | sym r =>
          rw [hv] at hmax
          simp only [toNat_of_trieValue.2 r hv]
          exact ih h (by decide) hnext hmax

/-- The loop of a trie's `build` over the codewords. -/
def trieFold (key : Nat → Bool → Nat) (back : MapBack) (ts : List Triple) : IntMap × Nat :=
  ts.foldl (fun acc t => trieInsert key t.symbol t.word 0 acc) (emptyMap back, 1)

theorem trieBuild_eq (key : Nat → Bool → Nat) (back : MapBack) (ts : List Triple) :
    trieBuild key back ts = (trieFold key back ts).1 :=
  rfl

theorem trieFold_append (key : Nat → Bool → Nat) (back : MapBack) (ts : List Triple) (t : Triple) :
    trieFold key back (ts ++ [t]) = trieInsert key t.symbol t.word 0 (trieFold key back ts) :=
  List.foldl_concat ..

/-- The map that a trie's `build` makes of a prefix-free code with few enough states holds the automaton. -/
theorem trieFold_holds (hkey : KeyInjective key) (back : MapBack) {ts : List Triple} : PrefixFree ts → ts.Nodup →
    (genericFold ts).2 ≤ nstateMax →
    Holds key (trieFold key back ts).1 (genericFold ts).1 ∧ (trieFold key back ts).2 = (genericFold ts).2 := by
  induction ts using List.reverseRecOn with
  | nil =>
    refine fun _ _ _ => ⟨⟨emptyMap_sized back, fun st _ b => ?_⟩, rfl⟩
    exact congrArg (Option.map trieValue) (mapGet_emptyMap back _)
  | append_singleton ts t ih =>
    intro hfree hnodup hmax
    rw [genericFold_append] at hmax ⊢
    rw [trieFold_append]
    have hle : (genericFold ts).2 ≤ nstateMax := (le_genericInsert _ _ _ _ _).trans hmax
    have hfree' := hfree.of_append_left
    have hnodup' := (List.nodup_append.mp hnodup).1
    obtain ⟨hholds, hstates⟩ := ih hfree' hnodup' hle
    obtain ⟨hnum, -⟩ := genericFold_spells hfree' hnodup'
    have hpair : trieFold key back ts = ((trieFold key back ts).1, (genericFold ts).2) := by rw [← hstates]
    rw [hpair]
    exact trieInsert_holds hkey t.symbol t.word hholds (by decide)
      (fun st b st' hg => (hnum.next_lt hg).trans_le hle) hmax

end

/-- The walk through the map that a trie's `build` makes of a healthy array is the abstract `Decode`. -/
theorem trieWalk_trieBuild_eq {key : Nat → Bool → Nat} (hkey : KeyInjective key) (back : MapBack)
    {e : EmptyDistCode} {which : Which} {lens : List Nat} {maxl : Nat} {k : Kind} (hlen : lens.length ≤ 288)
    (hl : ∀ l ∈ lens, l ≤ maxl) (hu : usedCount lens ≠ 0) (hhealthy : checkHealth e which lens maxl = some k)
    (p : Parser) :
    trieWalk (fun st b => (mapGet (trieBuild key back (codeTriples lens)) (key st b)).map trieValue)
        (maxLen lens) 0 p =
      contractDecode lens p := by
  have hk := kraftSum_le_of_healthy hhealthy
  have hfree := codeTriples_prefixFree hl hk
  have hnodup := codeTriples_nodup lens
  have hmax : (genericFold (codeTriples lens)).2 ≤ nstateMax :=
    (genericFold_states_le hl hu hhealthy).trans (hlen.trans (by decide))
  obtain ⟨hholds, -⟩ := trieFold_holds hkey back hfree hnodup hmax
  obtain ⟨hnum, -⟩ := genericFold_spells hfree hnodup
  rw [trieBuild_eq, trieWalk_congr hholds.get (fun st b st' hg => (hnum.next_lt hg).trans_le hmax) _ _ _ (by decide),
    trieWalk_genericFold_eq hl hk hu]

/-- Settles O40: the automaton of the codewords reaches an inner state inside a codeword and its symbol at its end;
it has at most 288 states, so the keys of both tries tell its transitions apart. -/
theorem mapsMeetContract : Obligations.MapsMeetContract := by
  intro cfg params which lens maxl t p hdecoder hlen hl _ ht
  obtain ⟨hhealthy, -, -⟩ := buildTable_eq_some _ _ _ _ _ _ ht
  refine decodeSym_agrees ht fun hu => ?_
  have hgeneric := trieWalk_genericFold_eq hl (kraftSum_le_of_healthy hhealthy) hu p
  rcases hdecoder with h | h | h
  · rw [buildStore, h, storeDecode, trieWalk_trieBuild_eq keyStateSymbol_injective _ hlen hl hu hhealthy]
    exact .refl _
  · rw [buildStore, h, storeDecode, trieWalk_trieBuild_eq keySymbolState_injective _ hlen hl hu hhealthy]
    exact .refl _
  · rw [buildStore, h, storeDecode, genericBuild_eq, hgeneric]
    exact .refl _

end Sys2Proof
end

section
/-! Proofs about the resize policies: each reaches the request, by doubling, by steps, from a table or by a draw. -/

namespace Sys2Proof.Machine

/-! ### The loops (R201, R202, R203) -/

/-- Each turn of `ARITH_DOUBLING` adds at least 1, so enough turns reach the request. -/
theorem le_growArith {step required fuel : Nat} (hstep : 1 ≤ step) :
    ∀ {n : Nat}, 1 ≤ n → required ≤ n + fuel → required ≤ growArith step required fuel n := by
  induction fuel with
  | zero => exact fun _ h => h
  | succ fuel ih =>
    intro n hn h
    rw [growArith]
    split
    · exact ih (by omega) (by omega)
    · omega

/-- Each turn of `POW2_SHIFT` adds at least 1, so enough turns reach the request, and the loop stops at the first
doubling that does. -/
theorem growPow2_eq_mul_two_pow {required fuel : Nat} :
    ∀ {n : Nat}, 1 ≤ n → required ≤ n + fuel →
      ∃ k, growPow2 required fuel n = n * 2 ^ k ∧ required ≤ n * 2 ^ k ∧ ∀ j < k, n * 2 ^ j < required := by
  induction fuel with
  | zero => exact fun {n} _ h => ⟨0, (Nat.mul_one n).symm, by omega, nofun⟩
  | succ fuel ih =>
    intro n hn h
    rw [growPow2]
    split
    · next hlt =>
      have hdouble (j : Nat) : n * 2 * 2 ^ j = n * 2 ^ (j + 1) := by rw [Nat.pow_succ', Nat.mul_assoc]
      obtain ⟨k, heq, hreach, hleast⟩ := ih (n := n * 2) (by omega) (by omega)
      rw [hdouble] at heq hreach
      refine ⟨k + 1, heq, hreach, fun j hj => ?_⟩
      cases j with
      | zero => rwa [Nat.pow_zero, Nat.mul_one]
      | succ j => exact hdouble j ▸ hleast j (by omega)
    · exact ⟨0, (Nat.mul_one n).symm, by omega, nofun⟩

/-- A table gives at least the request, sorted or not. -/
theorem le_growTable (required : Nat) (t : List Nat) : required ≤ growTable required t := by
  induction t with
  | nil => exact le_rfl
  | cons e rest ih =>
    rw [growTable]
    split
    · assumption
    · exact ih

/-- A table that rises gives its smallest entry that reaches the request. -/
theorem growTable_smallest {required : Nat} {t : List Nat} (hrise : t.Pairwise (· < ·))
    (hreach : ∃ e ∈ t, required ≤ e) :
    growTable required t ∈ t ∧ ∀ e ∈ t, required ≤ e → growTable required t ≤ e := by
  induction t with
  | nil => simp at hreach
  | cons a rest ih =>
    obtain ⟨hhead, hrest⟩ := List.pairwise_cons.mp hrise
    rw [growTable]
    split
    · refine ⟨List.mem_cons_self, fun e he _ => ?_⟩
      rcases List.mem_cons.mp he with rfl | he
      · exact le_rfl
      · exact (hhead e he).le
    · next hshort =>
      have hskip : ∀ e ∈ a :: rest, required ≤ e → e ∈ rest := fun e he hle =>
        (List.mem_cons.mp he).resolve_left fun hea => hshort (hea ▸ hle)
      obtain ⟨e, he, hle⟩ := hreach
      obtain ⟨hmem, hleast⟩ := ih hrest ⟨e, hskip e he hle, hle⟩
      exact ⟨List.mem_cons_of_mem a hmem, fun e he hle => hleast e (hskip e he hle) hle⟩

/-- A table without an entry that reaches the request gives the request. -/
theorem growTable_of_short {required : Nat} {t : List Nat} (hshort : ∀ e ∈ t, e < required) :
    growTable required t = required := by
  induction t with
  | nil => rfl
  | cons a rest ih =>
    obtain ⟨ha, hrest⟩ := List.forall_mem_cons.mp hshort
    rw [growTable, if_neg (Nat.not_le.mpr ha), ih hrest]

/-! ### The statements -/

/-- Settles O46: the loops have turns enough, a table answers the request at least, and a draw is added to it. -/
theorem growMeetsRequest : Obligations.GrowMeetsRequest := by
  intro policy g rng current required hcur _ hstep
  have hturns : required ≤ current + required := Nat.le_add_left _ _
  cases policy with
  | arithDoubling step => exact ⟨le_growArith (hstep step rfl) hcur hturns, fun _ => rfl⟩
  | pow2Shift =>
    obtain ⟨k, heq, hreach, -⟩ := growPow2_eq_mul_two_pow hcur hturns
    exact ⟨hreach.trans heq.ge, fun _ => rfl⟩
  | random seed => exact ⟨Nat.le_add_right _ _, fun h => absurd rfl (h seed)⟩
  | tablePaper | tableGolden | tableNatural | tablePaperPrime | tableGoldenPrime | tableNaturalPrime =>
    exact ⟨le_growTable _ _, fun _ => rfl⟩

/-- Settles O47: the loop doubles until the request is reached. -/
theorem pow2ShiftDoubles : Obligations.Pow2ShiftDoubles := by
  intro g rng current required hcur
  obtain ⟨k, heq, hreach, hleast⟩ := growPow2_eq_mul_two_pow hcur (Nat.le_add_left required current)
  refine ⟨k, heq, hreach, hleast, fun a ha => ⟨a + k, heq.trans ?_⟩⟩
  rw [ha, Nat.pow_add]

/-- Settles O48: the search meets the entries of a rising table from the smallest on. -/
theorem tableTakesSmallest : Obligations.TableTakesSmallest := by
  intro g rng current required policy t hpolicy hrise
  have hgrow : (grow policy g rng current required).1 = growTable required t := by
    simp only [List.mem_cons, List.not_mem_nil, or_false, Prod.mk.injEq] at hpolicy
    rcases hpolicy with ⟨rfl, rfl⟩ | ⟨rfl, rfl⟩ | ⟨rfl, rfl⟩ | ⟨rfl, rfl⟩ | ⟨rfl, rfl⟩ | ⟨rfl, rfl⟩ <;> rfl
  rw [hgrow]
  refine ⟨fun hreach => ?_, growTable_of_short⟩
  obtain ⟨hmem, hleast⟩ := growTable_smallest hrise hreach
  exact ⟨hmem, le_growTable required t, hleast⟩

end Sys2Proof.Machine
end

section
/-! Proofs about the physical layout of the run buffer: growth, compaction, release of blocks and the write of a byte
keep each retained byte at its index, in every strategy. -/

namespace Sys2Proof.Machine

variable {kind : BufferKind} {cfg : Cfg} {g : GrowthTables} {b b' : Buf} {s t : State}

/-! ### Indexes (R190, R192, R193) -/

/-- Two positions have different indexes, in the ring where they are less than `CAP` apart, in a linear layout where
the lower one is not below the base. -/
theorem physIndex_ne {cap base p q : Nat} (hpq : p < q) (hring : kind = .cyclic → q < p + cap)
    (hbase : kind ≠ .cyclic → base ≤ p) : physIndex kind cap base p ≠ physIndex kind cap base q := by
  have hlinear (h : base ≤ p) : p - base ≠ q - base := by omega
  cases kind with
  | cyclic =>
    intro heq
    have hdvd : cap ∣ q - p := (Nat.modEq_iff_dvd' hpq.le).mp heq
    have := Nat.le_of_dvd (by omega) hdvd
    have := hring rfl
    omega
  | copyOnGrow | nativeStrict | nativeLenient => exact hlinear (hbase nofun)
  | blockList => exact hpq.ne

/-! ### Storage laid out anew (R187, R191, R192) -/

/-- After writes at different addresses each address reads the byte written there. -/
theorem Memory.read_foldl_write {f : List Host.Cell → Nat → List Host.Cell} {idx : Nat → Nat} {val : Nat → Byte}
    {n : Nat} (hwrite : ∀ m, ∀ i < n, f m i = Memory.write m (idx i) (val i))
    (hne : ∀ i j, i < j → j < n → idx i ≠ idx j) :
    ∀ i < n, Memory.read ((List.range n).foldl f []) (idx i) = some (val i) := by
  induction n with
  | zero => nofun
  | succ n ih =>
    intro i hi
    rw [List.range_succ, List.foldl_append, List.foldl_cons, List.foldl_nil, hwrite _ n n.lt_succ_self]
    rcases Nat.lt_succ_iff_lt_or_eq.mp hi with hlt | rfl
    · rw [Memory.read_write_other _ _ _ _ (hne i n hlt n.lt_succ_self)]
      exact ih (fun m j hj => hwrite m j (by omega)) (fun j k hjk hk => hne j k hjk (by omega)) i hlt
    · exact Memory.read_write_same _ _ _

/-- Storage laid out anew holds each byte that was held, at its new index. -/
theorem relay_read {cap' base' lo : Nat}
    (hheld : ∀ p, lo ≤ p → p < Buf.total b → Buf.physRead kind b p = b.out[p]?)
    (hne : ∀ p q, lo ≤ p → p < q → q < Buf.total b → physIndex kind cap' base' p ≠ physIndex kind cap' base' q)
    {p : Nat} (hlo : lo ≤ p) (hp : p < Buf.total b) :
    Memory.read (relay kind b cap' base' lo) (physIndex kind cap' base' p) = b.out[p]? := by
  obtain ⟨i, rfl⟩ := Nat.exists_eq_add_of_le hlo
  have hout (j : Nat) (hj : lo + j < Buf.total b) : b.out[lo + j]? = some (b.out.getD (lo + j) 0) := by
    have hlen : lo + j < b.out.length := hj
    simp [List.getD_eq_getElem?_getD, hlen]
  rw [hout i hp]
  unfold relay
  refine Memory.read_foldl_write (idx := fun j => physIndex kind cap' base' (lo + j))
    (val := fun j => b.out.getD (lo + j) 0) (fun m j hj => ?_)
    (fun j k hjk hk => hne _ _ (by omega) (by omega) (by omega)) i (by omega)
  simp only [hheld (lo + j) (by omega) (by omega), hout j (by omega)]

/-- A growth or a compaction keeps the layout, where the new capacity holds what is laid out. -/
theorem Buf.LaidOut.relaid {cap' base' lo : Nat} (rng' : Option Nat) (h : Buf.LaidOut kind b) (hlo : b.rlo ≤ lo)
    (hring : kind = .cyclic → 1 ≤ cap' ∧ Buf.total b - lo ≤ cap') (hbase : kind ≠ .cyclic → base' ≤ lo) :
    Buf.LaidOut kind
      { b with cap := cap', base := base', rng := rng', phys := relay kind b cap' base' lo, rlo := lo } := by
  obtain ⟨-, -, hheld⟩ := h
  refine ⟨hring, hbase, fun p hp ht => relay_read (fun p hp ht => hheld p (hlo.trans hp) ht)
    (fun p q hp hpq hq => physIndex_ne hpq (fun hk => ?_) fun hk => (hbase hk).trans hp) hp ht⟩
  have := (hring hk).2
  omega

/-- Retaining fewer bytes keeps the layout. -/
theorem Buf.LaidOut.retainLess {rlo' : Nat} (h : Buf.LaidOut kind b) (hlo : b.rlo ≤ rlo') :
    Buf.LaidOut kind { b with rlo := rlo' } := by
  obtain ⟨hring, hbase, hheld⟩ := h
  refine ⟨fun hk => ⟨(hring hk).1, ?_⟩, fun hk => (hbase hk).trans hlo, fun p hp ht => hheld p (hlo.trans hp) ht⟩
  have := (hring hk).2
  show Buf.total b - rlo' ≤ b.cap
  omega

/-! ### `EnsureCapacity` (R187) -/

/-- The layout holds every retained byte and, in the ring, has a free cell for one byte more. -/
def Buf.HasRoom (kind : BufferKind) (b : Buf) : Prop :=
  Buf.LaidOut kind b ∧ (kind = .cyclic → Buf.total b < b.rlo + b.cap)

/-- `grow` under a legal configuration gives the capacity asked for. -/
theorem le_grow {rng : Option Nat} {current required : Nat} (hlegal : Cfg.legal cfg = true) (hcur : 1 ≤ current)
    (hlt : current < required) : required ≤ (grow cfg.policy g rng current required).1 := by
  refine (growMeetsRequest cfg.policy g rng current required hcur hlt fun step hstep => ?_).1
  simpa [Cfg.legal, hstep] using (Bool.and_eq_true_iff.mp hlegal).2

/-- The ring grows where the append does not fit, and has room else (R190, R191). -/
theorem ensureCyclic_hasRoom {k : Nat} (hlegal : Cfg.legal cfg = true) (h : Buf.LaidOut .cyclic b)
    (hlo : b.rlo ≤ retainFrom cfg.wsize b.drained (Buf.total b + 1)) :
    Buf.HasRoom .cyclic (ensureCyclic cfg g k (Buf.total b + 1) b) := by
  have hcap := (h.1 rfl).1
  simp only [ensureCyclic]
  generalize retainFrom cfg.wsize b.drained (Buf.total b + 1) = lo at hlo ⊢
  split
  · next hfull =>
    have hgrow := le_grow (g := g) (rng := b.rng) hlegal hcap hfull
    have hholds := (Nat.sub_le_sub_right (Nat.le_succ (Buf.total b)) lo).trans hgrow
    exact ⟨h.relaid _ hlo (fun _ => ⟨(hcap.trans hfull.le).trans hgrow, hholds⟩) nofun, fun _ =>
      Nat.sub_le_iff_le_add'.mp hgrow⟩
  · next hfits =>
    have hpick := le_pickBetween (max b.rlo (Buf.total b + 1 - b.cap)) lo (Config.freeNat k) (by omega)
    obtain ⟨hold, hroom⟩ := max_le_iff.mp hpick
    exact ⟨h.retainLess hold, fun _ => Nat.sub_le_iff_le_add.mp hroom⟩

/-- A linear layout grows, is compacted, or has room (R192). -/
theorem ensureLinear_hasRoom {k : Nat} (hk : cfg.buffer ≠ .cyclic) (h : Buf.LaidOut cfg.buffer b)
    (hlo : b.rlo ≤ retainFrom cfg.wsize b.drained (Buf.total b + 1))
    (hbase : b.base ≤ retainFrom cfg.wsize b.drained (Buf.total b + 1)) :
    Buf.HasRoom cfg.buffer (ensureLinear cfg g k (Buf.total b + 1) b) := by
  refine ⟨?_, fun hc => absurd hc hk⟩
  simp only [ensureLinear]
  split
  · exact h.relaid _ hlo (fun hc => absurd hc hk) fun _ => le_rfl
  · split
    · exact h.relaid b.rng hlo (fun hc => absurd hc hk) fun _ => le_rfl
    · exact h.retainLess ((le_max_left _ _).trans (le_pickBetween _ _ _ (max_le hlo hbase)))

/-- The block list releases no byte that stays retained (R193). -/
theorem ensureBlocks_hasRoom {k : Nat} (h : Buf.LaidOut .blockList b)
    (hlo : b.rlo ≤ retainFrom cfg.wsize b.drained (Buf.total b + 1)) :
    Buf.HasRoom .blockList (ensureBlocks cfg g k (Buf.total b + 1) b) := by
  obtain ⟨-, -, hheld⟩ := h
  refine ⟨?_, nofun⟩
  simp only [ensureBlocks]
  generalize retainFrom cfg.wsize b.drained (Buf.total b + 1) = lo at hlo ⊢
  have hfirst : pickBetween (b.base / cfg.blockSize) (lo / cfg.blockSize) (Config.freeNat k) * cfg.blockSize ≤ lo :=
    (Nat.mul_le_mul_right _ (pickBetween_le _ _ _)).trans (Nat.div_mul_le_self _ _)
  generalize pickBetween (b.base / cfg.blockSize) (lo / cfg.blockSize) (Config.freeNat k) * cfg.blockSize = base'
    at hfirst ⊢
  have hpick := le_pickBetween (max b.rlo base') lo (Config.freeNat (k + 1)) (max_le hlo hfirst)
  obtain ⟨hold, hnew⟩ := max_le_iff.mp hpick
  exact ⟨nofun, fun _ => hnew, fun p hp ht =>
    (Memory.read_dropBelow _ _ _ (hnew.trans hp)).trans (hheld p (hold.trans hp) ht)⟩

/-- `EnsureCapacity` makes room for one byte more, in every strategy. -/
theorem ensureCapacity_hasRoom {k : Nat} (hlegal : Cfg.legal cfg = true) (hret : Buf.Retains cfg.wsize b)
    (h : Buf.LaidOut cfg.buffer b) : Buf.HasRoom cfg.buffer (ensureCapacity cfg g k (Buf.total b + 1) b) := by
  obtain ⟨-, hrlo, hbase⟩ := hret
  have hmono := retainFrom_mono cfg.wsize (le_refl b.drained) (Nat.le_succ (Buf.total b))
  have hlo := hrlo.trans hmono
  have hlinear (hk : cfg.buffer ≠ .cyclic) := ensureLinear_hasRoom (g := g) (k := k) hk h hlo (hbase.trans hmono)
  unfold ensureCapacity
  cases hk : cfg.buffer with
  | cyclic => exact ensureCyclic_hasRoom hlegal (hk ▸ h) hlo
  | blockList => exact ensureBlocks_hasRoom (hk ▸ h) hlo
  | copyOnGrow | nativeStrict | nativeLenient =>
    rw [hk] at hlinear
    exact hlinear nofun

/-! ### `Append` (R182) -/

/-- The write of a byte lands where no retained byte is (R190). -/
theorem Buf.HasRoom.put (v : Byte) (h : Buf.HasRoom cfg.buffer b) : Buf.LaidOut cfg.buffer (Buf.put cfg v b) := by
  obtain ⟨⟨hring, hbase, hheld⟩, hroom⟩ := h
  have htotal : Buf.total (Buf.put cfg v b) = Buf.total b + 1 := List.length_append
  refine ⟨fun hk => ⟨(hring hk).1, ?_⟩, hbase, fun p hp ht => ?_⟩
  · have := hroom hk
    show Buf.total (Buf.put cfg v b) - b.rlo ≤ b.cap
    omega
  · change b.rlo ≤ p at hp
    show Memory.read (Memory.write b.phys _ v) (physIndex cfg.buffer b.cap b.base p) = (b.out ++ [v])[p]?
    rcases Nat.lt_succ_iff_lt_or_eq.mp (htotal ▸ ht) with hlt | rfl
    · rw [Memory.read_write_other _ _ _ _ (physIndex_ne hlt (fun hk => ?_) fun hk => (hbase hk).trans hp),
        List.getElem?_append_left hlt]
      · exact hheld p hp hlt
      · have := hroom hk
        omega
    · rw [Memory.read_write_same]
      exact List.getElem?_concat_length.symm

/-- Appends keep the layout. -/
theorem Buf.Appended.laidOut (h : Buf.Appended cfg g b b') (hlegal : Cfg.legal cfg = true)
    (hret : Buf.Retains cfg.wsize b) (hb : Buf.LaidOut cfg.buffer b) : Buf.LaidOut cfg.buffer b' := by
  induction h with
  | refl => exact hb
  | append k v happ ih => exact (ensureCapacity_hasRoom hlegal (happ.retains hret) ih).put v

/-! ### Every step -/

/-- A new run buffer is laid out, whatever the strategy (R55). -/
theorem fresh_laidOut (hlegal : Cfg.legal cfg = true) : Buf.LaidOut cfg.buffer (Buf.fresh cfg) := by
  obtain ⟨hcap, -⟩ := of_decide_eq_true (Bool.and_eq_true_iff.mp hlegal).1
  exact ⟨fun _ => ⟨hcap, Nat.zero_le _⟩, fun _ => le_rfl, fun p _ hp => absurd hp (Nat.not_lt_zero p)⟩

/-- A stream operation keeps the layout: it only appends. -/
theorem streamStep_laidOut (hs : s.Inv) (hrun : running s.phase = true) (hlaid : Buf.LaidOut s.cfg.buffer s.buf)
    (h : streamStep s = .next t) : Buf.LaidOut t.cfg.buffer t.buf := by
  obtain ⟨p, ⟨e, r, -, rfl⟩ | ⟨-, hw, -⟩⟩ := streamStep_cases_of_inv hs hrun h
  · exact hlaid
  · have hcfg : t.cfg = s.cfg := by rw [hw.frame]; rfl
    rw [hcfg]
    exact hw.appended.laidOut hs.cfg_legal (hs.retains (running_open hrun).2) hlaid

/-- A read call only delivers. -/
theorem ReadOutcome.laidOut (h : ReadOutcome s t) (hlaid : Buf.LaidOut s.cfg.buffer s.buf) :
    Buf.LaidOut t.cfg.buffer t.buf := by
  rw [h.frame]
  exact hlaid

/-- A host call that leaves the session open delivers, or begins a new session. -/
theorem call_laidOut (c : HostCall) (hopen : t.phase ≠ .closed) (hlaid : Buf.LaidOut s.cfg.buffer s.buf)
    (h : exec (callInstr c) s = .next t) : Buf.LaidOut t.cfg.buffer t.buf := by
  cases c with
  | construct raw source =>
    change execConstruct raw source s = _ at h
    unfold execConstruct at h
    split at h <;> cases h
    · exact hlaid
    · next cfg hcfg => exact fresh_laidOut (validate_legal hcfg)
  | read => exact (execRead_cases h).2.laidOut (by simpa using hlaid)
  | readbuf n =>
    rcases (execReadbuf_cases h).2 with rfl | ⟨-, ho⟩
    · exact hlaid
    · exact ho.laidOut (by simpa using hlaid)
  | close =>
    change execClose s = _ at h
    unfold execClose at h
    split at h <;> cases h
    · exact hlaid
    · exact absurd rfl hopen

/-- Settles O53: a stream operation appends byte by byte, each time with room for the byte, and a host call moves no
byte or begins with none. -/
theorem stepKeepsLayout : Obligations.StepKeepsLayout := by
  intro s t hs _ hlaid h hopen
  rcases step_cases s with ⟨c, -, hmore, hstep⟩ | ⟨c, -, -, hstep⟩ | ⟨c, rest, -, -, hstep⟩ | ⟨-, -, hstep⟩ <;>
    rw [hstep] at h
  · exact streamStep_laidOut hs (running_of_needsMore hmore) hlaid h
  · exact call_laidOut c hopen hlaid h
  · exact call_laidOut c (s := takeCall rest s) hopen hlaid h
  · cases h
    exact hlaid

end Sys2Proof.Machine
end

section
/-! Proofs about what a buffer strategy can show: a state with other hidden configuration and storage executes every
instruction alike, so no step tells the two apart. -/

namespace Sys2Proof.Machine

/-! ### Hidden parts (R188) -/

/-- The parts of a state that no step may show: the buffer strategy, its policy and capacities, and the storage. -/
structure Hidden where
  buffer : BufferKind
  policy : Policy
  initCap : Nat
  blockSize : Nat
  storage : Buf

/-- The state with other hidden parts: the output and the progress of delivery stay. -/
def State.hiding (s : State) (x : Hidden) : State :=
  { s with
    cfg := { s.cfg with
      buffer := x.buffer, policy := x.policy, initCap := x.initCap, blockSize := x.blockSize }
    buf := { x.storage with out := s.buf.out, drained := s.buf.drained } }

section
variable (s : State) (x : Hidden)

@[simp] theorem hiding_mode : (s.hiding x).cfg.mode = s.cfg.mode := rfl

@[simp] theorem hiding_params : (s.hiding x).params = s.params := rfl

@[simp] theorem hiding_phase : (s.hiding x).phase = s.phase := rfl

@[simp] theorem hiding_err : (s.hiding x).err = s.err := rfl

@[simp] theorem hiding_reg : (s.hiding x).reg = s.reg := rfl

@[simp] theorem hiding_fixedBuilt : (s.hiding x).fixedBuilt = s.fixedBuilt := rfl

@[simp] theorem hiding_host : (s.hiding x).host = s.host := rfl

@[simp] theorem hiding_undelivered (k : Nat) :
    Buf.undelivered k (s.hiding x).buf = Buf.undelivered k s.buf := rfl

@[simp] theorem hiding_needsMore (want : Nat) : (s.hiding x).needsMore want = s.needsMore want := rfl

@[simp] theorem hiding_fetchElem : fetchElem (s.hiding x) = fetchElem s := rfl

@[simp] theorem hiding_buildTable (params : Params) (which : Which) (lens : List Nat) (maxl : Nat) :
    buildTable (s.hiding x).cfg params which lens maxl = buildTable s.cfg params which lens maxl := rfl

end

/-- Two states have the same view exactly if one is the other with other hidden parts. -/
theorem sameView_iff_hiding {s t : State} : SameView s t ↔ ∃ x, t = s.hiding x := by
  constructor
  · exact fun h => ⟨⟨t.cfg.buffer, t.cfg.policy, t.cfg.initCap, t.cfg.blockSize, t.buf⟩, h⟩
  · rintro ⟨x, rfl⟩
    rfl

theorem SameView.of_eq_hiding {s t : State} {x : Hidden} (h : t = s.hiding x) : SameView s t :=
  sameView_iff_hiding.mpr ⟨x, h⟩

/-- Outcomes of a choice that the view decides. -/
theorem SameOutcome.ite {c : Prop} [Decidable c] {a b a' b' : Result} (ha : c → SameOutcome a a')
    (hb : ¬c → SameOutcome b b') : SameOutcome (if c then a else b) (if c then a' else b') := by
  split
  · next hc => exact ha hc
  · next hc => exact hb hc

/-- A choice that the view decides commutes with hiding where its branches do. -/
theorem ite_hiding {c : Prop} {hc : Decidable c} {a b a' b' : State} {x : Hidden} (ha : a' = a.hiding x)
    (hb : b' = b.hiding x) : (if c then a' else b') = (if c then a else b).hiding x := by
  rw [ha, hb]
  exact (apply_ite (State.hiding · x) c a b).symm

variable (s : State) (x : Hidden)

/-! ### Headers and code lengths -/

/-- Which decode tables are built does not depend on the hidden parts (R146). -/
theorem buildFixed_hiding : buildFixed (s.hiding x) = (buildFixed s).hiding x := by
  simp only [buildFixed, hiding_fixedBuilt, hiding_params, hiding_reg, hiding_buildTable]
  exact ite_hiding rfl rfl

theorem execBhdr_same (final : Bool) (type : BitVec 2) :
    SameOutcome (execBhdr final type s) (execBhdr final type (s.hiding x)) := by
  unfold execBhdr
  split
  · rfl
  · have hfixed := buildFixed_hiding (recordHeader final 1 s) x
    exact SameView.of_eq_hiding (congrArg useFixed hfixed)
  · rfl
  · rfl

theorem startStored_hiding (len : BitVec 16) : startStored len (s.hiding x) = (startStored len s).hiding x :=
  ite_hiding rfl rfl

theorem execStoredHdr_same (len nlen : BitVec 16) :
    SameOutcome (execStoredHdr len nlen s) (execStoredHdr len nlen (s.hiding x)) :=
  .ite (fun _ => SameView.of_eq_hiding (startStored_hiding (recordLen len nlen s) x len)) fun _ => rfl

theorem execDynClbuild_same : SameOutcome (execDynClbuild s) (execDynClbuild (s.hiding x)) := by
  simp only [execDynClbuild, hiding_params, hiding_reg, hiding_buildTable]
  split <;> rfl

theorem afterLens_hiding : afterLens (s.hiding x) = (afterLens s).hiding x :=
  ite_hiding rfl rfl

theorem clLen_same (v : BitVec 4) : SameOutcome (clLen v s) (clLen v (s.hiding x)) :=
  SameView.of_eq_hiding (afterLens_hiding (setPrev v (putLens 1 v s)) x)

theorem repeatLens_same (r : Nat) (v : BitVec 4) : SameOutcome (repeatLens r v s) (repeatLens r v (s.hiding x)) :=
  .ite (fun _ => rfl) fun _ => SameView.of_eq_hiding (afterLens_hiding (putLens r v s) x)

theorem zeroLens_same (r : Nat) : SameOutcome (zeroLens r s) (zeroLens r (s.hiding x)) :=
  .ite (fun _ => rfl) fun _ => SameView.of_eq_hiding (afterLens_hiding (setPrev 0 (putLens r 0 s)) x)

theorem execClRep16_same (e : BitVec 2) : SameOutcome (execClRep16 e s) (execClRep16 e (s.hiding x)) := by
  refine .ite (fun _ => repeatLens_same s x _ _) fun _ => ?_
  rw [hiding_params]
  split
  · rfl
  · exact repeatLens_same { s with reg := { s.reg with prev := 0 } } x _ _

theorem execDynBuild_same : SameOutcome (execDynBuild s) (execDynBuild (s.hiding x)) := by
  show SameOutcome (buildData (splitLens s)) (buildData ((splitLens s).hiding x))
  simp only [buildData, hiding_params, hiding_reg, hiding_buildTable]
  split
  · rfl
  · split <;> rfl

/-! ### Appending and copying (R182, R183) -/

/-- A buffer whose output and progress are known. -/
theorem buf_eq_of_view {b : Buf} {out : List Byte} {drained : Nat} (ho : b.out = out) (hd : b.drained = drained) :
    b = { b with out := out, drained := drained } := by
  subst ho hd
  rfl

/-- `Append` shows the byte and nothing of the layout it went to. -/
theorem append_hiding (v : Byte) :
    append v (s.hiding x) = (append v s).hiding { x with storage := (append v (s.hiding x)).buf } := by
  have hbuf : (append v (s.hiding x)).buf =
      { (append v (s.hiding x)).buf with out := (append v s).buf.out, drained := (append v s).buf.drained } :=
    buf_eq_of_view (by simp only [append_buf, Buf_append_out]; rfl)
      (by simp only [append_buf, Buf_append_drained]; rfl)
  exact congrArg (fun b => { append v (s.hiding x) with buf := b }) hbuf

theorem countStored_hiding : countStored (s.hiding x) = (countStored s).hiding x :=
  ite_hiding rfl rfl

theorem execStoredByte_same (v : Byte) : SameOutcome (execStoredByte v s) (execStoredByte v (s.hiding x)) :=
  SameView.of_eq_hiding ((congrArg countStored (append_hiding s x v)).trans (countStored_hiding _ _))

theorem execLit_same (v : Byte) : SameOutcome (execLit v s) (execLit v (s.hiding x)) :=
  SameView.of_eq_hiding (append_hiding (setSym v.toNat s) x v)

/-- A read at a legal distance finds the byte of the output: the position is retained (R181). -/
theorem memRead_of_legal {w d : Nat} {b : Buf} (hret : Buf.Retains w b) (ht : d ≤ Buf.total b) (hw : d ≤ w) :
    Buf.memRead b (Buf.total b - d) = b.out[Buf.total b - d]? :=
  if_pos (hret.2.1.trans (retainFrom_le_of_legal w b.drained (Buf.total b) d ht hw))

variable {s x}

/-- The loop of `CopyBack` reads the same bytes from every layout that retains the window. -/
theorem copyLoop_same {d : Nat} (n : Nat) : ∀ {s : State} {x : Hidden}, d ≤ s.total → d ≤ s.cfg.wsize →
    Buf.Retains s.cfg.wsize s.buf → Buf.Retains s.cfg.wsize (s.hiding x).buf →
      SameOutcome (copyLoop d n s) (copyLoop d n (s.hiding x)) := by
  induction n with
  | zero => exact fun _ _ _ _ => rfl
  | succ n ih =>
    intro s x ht hw hs hx
    have hread : Buf.memRead s.buf (s.total - d) = s.buf.out[s.total - d]? := memRead_of_legal hs ht hw
    have hread' : Buf.memRead (s.hiding x).buf ((s.hiding x).total - d) = s.buf.out[s.total - d]? :=
      memRead_of_legal hx ht hw
    rw [copyLoop, copyLoop, hread, hread']
    split
    · rfl
    · next v _ =>
      have hx' := append_retains v (s.hiding x) hx
      rw [append_hiding] at hx' ⊢
      exact ih (by rw [append_total]; omega) hw (append_retains v s hs) hx'

/-- No check of a strategy fires at a legal distance (R194, R195). -/
theorem copyBack_eq_copyLoop (l : Nat) {d : Nat} (h1 : 1 ≤ d) (ht : d ≤ s.total) (hw : d ≤ s.cfg.wsize)
    (hs : Buf.Retains s.cfg.wsize s.buf) : copyBack l d s = copyLoop d l s := by
  have hstrict : strictCheck d s = true := decide_eq_true ⟨h1, le_min ht hw⟩
  have hlenient : lenientCheck d s = true :=
    decide_eq_true (hs.2.2.trans (retainFrom_le_of_legal _ _ _ _ ht hw))
  unfold copyBack
  split
  · rfl
  · rfl
  · rfl
  · exact if_pos hstrict
  · exact if_pos hlenient

theorem copyBack_same (l : Nat) {d : Nat} (h1 : 1 ≤ d) (ht : d ≤ s.total) (hw : d ≤ s.cfg.wsize)
    (hs : Buf.Retains s.cfg.wsize s.buf) (hx : Buf.Retains s.cfg.wsize (s.hiding x).buf) :
    SameOutcome (copyBack l d s) (copyBack l d (s.hiding x)) := by
  rw [copyBack_eq_copyLoop l h1 ht hw hs, copyBack_eq_copyLoop (s := s.hiding x) l h1 ht hw hx]
  exact copyLoop_same l ht hw hs hx

/-- The legality of a distance is decided by the view (R315). -/
theorem copyFrom_same {dist : Nat} (h1 : 1 ≤ dist) (hs : Buf.Retains s.cfg.wsize s.buf)
    (hx : Buf.Retains s.cfg.wsize (s.hiding x).buf) :
    SameOutcome (copyFrom dist s) (copyFrom dist (s.hiding x)) := by
  refine .ite (fun hlegal => ?_) fun _ => rfl
  obtain ⟨ht, hw⟩ := of_decide_eq_true hlegal
  exact copyBack_same (s := { s with reg := { s.reg with mdist := BitVec.ofNat 17 dist } }) (x := x) _ h1 ht hw hs hx

theorem distancePart_same (c e : Nat) (hs : Buf.Retains s.cfg.wsize s.buf)
    (hx : Buf.Retains s.cfg.wsize (s.hiding x).buf) :
    SameOutcome (distancePart c e s) (distancePart c e (s.hiding x)) := by
  simp only [distancePart, hiding_mode]
  split
  · rfl
  · next dist hdist =>
    exact copyFrom_same (s := { s with reg := { s.reg with dsym := BitVec.ofNat 5 c } }) (x := x)
      (one_le_distanceOf _ _ _ _ hdist) hs hx

theorem matchOp_same (sym mlen : Nat) (d : DistField) (hs : Buf.Retains s.cfg.wsize s.buf)
    (hx : Buf.Retains s.cfg.wsize (s.hiding x).buf) :
    SameOutcome (matchOp sym mlen d s) (matchOp sym mlen d (s.hiding x)) :=
  distancePart_same (s := { setSym sym s with reg := { (setSym sym s).reg with mlen := BitVec.ofNat 17 mlen } })
    _ _ hs hx

theorem symbolOp_same (sym e : Nat) (d : DistField) (hs : Buf.Retains s.cfg.wsize s.buf)
    (hx : Buf.Retains s.cfg.wsize (s.hiding x).buf) :
    SameOutcome (symbolOp sym e d s) (symbolOp sym e d (s.hiding x)) :=
  .ite (fun _ => rfl) fun _ => .ite (fun _ => matchOp_same _ _ _ hs hx) fun _ => rfl

/-! ### Host calls (R340 to R350) -/

variable (s x)

theorem execConstruct_same (raw : RawCfg) (source : List Byte) :
    SameOutcome (execConstruct raw source s) (execConstruct raw source (s.hiding x)) := by
  unfold execConstruct
  split <;> rfl

theorem beginCall_hiding (c : HostCall) (want : Nat) :
    beginCall c want (s.hiding x) = (beginCall c want s).hiding x := by
  simp only [beginCall, hiding_host]
  split <;> rfl

theorem reportError_hiding : reportError (s.hiding x) = (reportError s).hiding x := by
  simp only [reportError, hiding_err]
  split <;> rfl

theorem finishEmpty_hiding : finishEmpty (s.hiding x) = (finishEmpty s).hiding x := by
  simp only [finishEmpty, hiding_phase]
  split
  · rfl
  · exact reportError_hiding s x
  all_goals rfl

theorem finishRead_hiding : finishRead (s.hiding x) = (finishRead s).hiding x := by
  refine ite_hiding (reportError_hiding s x) ?_
  rw [hiding_undelivered]
  split
  · rfl
  · exact finishEmpty_hiding s x

theorem finishReadbuf_hiding (n : Nat) : finishReadbuf n (s.hiding x) = (finishReadbuf n s).hiding x :=
  ite_hiding (reportError_hiding s x) (ite_hiding rfl (finishEmpty_hiding s x))

theorem execRead_same : SameOutcome (execRead s) (execRead (s.hiding x)) := by
  refine .ite (fun _ => rfl) fun _ => ?_
  dsimp only
  rw [beginCall_hiding]
  exact .ite (fun _ => rfl) fun _ => SameView.of_eq_hiding (finishRead_hiding _ x)

theorem execReadbuf_same (n : Nat) : SameOutcome (execReadbuf n s) (execReadbuf n (s.hiding x)) := by
  refine .ite (fun _ => rfl) fun _ => .ite (fun _ => rfl) fun _ => ?_
  dsimp only
  rw [beginCall_hiding]
  exact .ite (fun _ => rfl) fun _ => SameView.of_eq_hiding (finishReadbuf_hiding
    { beginCall (.readbuf n) (readWant s n) s with free := s.free + 1 } x n)

theorem execClose_same : SameOutcome (execClose s) (execClose (s.hiding x)) :=
  .ite (fun _ => rfl) fun _ => rfl

theorem call_same (c : HostCall) : SameOutcome (exec (callInstr c) s) (exec (callInstr c) (s.hiding x)) := by
  cases c with
  | construct raw source => exact execConstruct_same s x raw source
  | read => exact execRead_same s x
  | readbuf n => exact execReadbuf_same s x n
  | close => exact execClose_same s x

/-! ### Every instruction and every step -/

variable {s x}

/-- No instruction tells two layouts apart, where both retain the window. -/
theorem exec_same (i : Instr) (hs : Buf.Retains s.cfg.wsize s.buf) (hx : Buf.Retains s.cfg.wsize (s.hiding x).buf) :
    SameOutcome (exec i s) (exec i (s.hiding x)) := by
  cases i with
  | bhdr f ty => exact execBhdr_same s x f ty
  | blkStored f => exact execBhdr_same s x f 0
  | blkFixed f => exact execBhdr_same s x f 1
  | blkDynamic f => exact execBhdr_same s x f 2
  | blkReserved f => exact execBhdr_same s x f 3
  | storedHdr len nlen => exact execStoredHdr_same s x len nlen
  | storedByte v => exact execStoredByte_same s x v
  | dynCounts | dynCllen | eob | llInvalid | distInvalid => rfl
  | dynClbuild => exact execDynClbuild_same s x
  | clLen0 | clLen1 | clLen2 | clLen3 | clLen4 | clLen5 | clLen6 | clLen7 | clLen8 | clLen9 | clLen10
  | clLen11 | clLen12 | clLen13 | clLen14 | clLen15 => exact clLen_same s x _
  | clRep16 e => exact execClRep16_same s x e
  | clZrep17 e | clZrep18 e => exact zeroLens_same s x _
  | dynBuild => exact execDynBuild_same s x
  | lit v | fixedLl0To143 v | fixedLl144To255 v => exact execLit_same s x v
  | matchL257 d | matchL258 d | matchL259 d | matchL260 d | matchL261 d | matchL262 d | matchL263 d
  | matchL264 d | matchL285 d => exact matchOp_same _ _ d hs hx
  | matchL265 e d | matchL266 e d | matchL267 e d | matchL268 e d | matchL269 e d | matchL270 e d
  | matchL271 e d | matchL272 e d | matchL273 e d | matchL274 e d | matchL275 e d | matchL276 e d
  | matchL277 e d | matchL278 e d | matchL279 e d | matchL280 e d | matchL281 e d | matchL282 e d
  | matchL283 e d | matchL284 e d | matchL285D64 e d => exact matchOp_same _ _ d hs hx
  | dist0 | dist1 | dist2 | dist3 => exact distancePart_same _ _ hs hx
  | dist4 e | dist5 e | dist6 e | dist7 e | dist8 e | dist9 e | dist10 e | dist11 e | dist12 e | dist13 e
  | dist14 e | dist15 e | dist16 e | dist17 e | dist18 e | dist19 e | dist20 e | dist21 e | dist22 e
  | dist23 e | dist24 e | dist25 e | dist26 e | dist27 e | dist28 e | dist29 e | dist30D64 e
  | dist31D64 e | fixedD0To31 e => exact distancePart_same _ _ hs hx
  | fixedLl256To279 n e d | fixedLl280To287 n e d => exact symbolOp_same _ _ d hs hx
  | construct raw source => exact call_same s x (.construct raw source)
  | read => exact call_same s x .read
  | readbuf n => exact call_same s x (.readbuf n)
  | close => exact call_same s x .close

theorem streamStep_same (hs : Buf.Retains s.cfg.wsize s.buf) (hx : Buf.Retains s.cfg.wsize (s.hiding x).buf) :
    SameOutcome (streamStep s) (streamStep (s.hiding x)) := by
  simp only [streamStep, hiding_fetchElem]
  split
  · next i p _ => exact exec_same (s := atElement p s) (x := x) i hs hx
  · rfl
  · rfl

/-- Settles O60: both states read the same element or call and execute it alike; a copy reads only positions that
both layouts retain. -/
theorem bufferStrategiesInvisible : Obligations.BufferStrategiesInvisible := by
  intro s t hs ht hview
  obtain ⟨x, rfl⟩ := sameView_iff_hiding.mp hview
  simp only [step, hiding_host, hiding_needsMore]
  split
  · refine .ite (fun hmore => ?_) fun _ => call_same s x _
    have hopen := (running_open (running_of_needsMore hmore)).2
    exact streamStep_same (hs.retains hopen) (ht.retains hopen)
  · split
    · exact hview
    · next c rest _ => exact call_same (takeCall rest s) x c

end Sys2Proof.Machine
end

section
/-! Proofs about the two reading operations of the parser: `GetBits` consumes the bits of its field, or none where it
faults, and `AlignByte` those up to the next byte. -/

namespace Sys2Proof

open Sys2Proof.Machine

variable {p q : Parser}

/-! ### `BP` (R22, R23) -/

/-- The bits consumed and the bits to come are those of the whole source. -/
theorem Parser.Coherent.bp_add_length_upcoming (hp : p.Coherent) :
    p.bp + p.upcoming.length = 8 * p.input.length := by
  obtain ⟨hi, hb, -, -⟩ := hp
  have hup : p.upcoming.length = p.bitcnt + 8 * (p.input.length - p.ipos) := by
    simp [Parser.upcoming, Parser.bitcnt]
  unfold Parser.bp
  omega

/-! ### A fault of `NeedBits` consumes nothing (R223, R226) -/

theorem Parser.srcByte_bp (p : Parser) : p.srcByte.2.bp = p.bp := by
  unfold Parser.srcByte
  split
  · rfl
  · split <;> rfl

/-- A byte fetched is 8 bits more at hand, a fetch that fails leaves the bits at hand. -/
theorem Parser.fetchByte_bp (p : Parser) :
    (∀ q, p.fetchByte = .ok () q → q.bp = p.bp) ∧ (∀ e q, p.fetchByte = .raised e q → q.bp = p.bp) := by
  have hsrc := p.srcByte_bp
  unfold Parser.fetchByte
  generalize p.srcByte = x at hsrc ⊢
  obtain ⟨_ | b, r⟩ := x
  · refine ⟨fun q h => (nomatch h), fun e q h => ?_⟩
    cases h
    exact hsrc
  · refine ⟨fun q h => ?_, fun e q h => (nomatch h)⟩
    cases h
    rw [← hsrc]
    simp only [Parser.bp, Parser.bitcnt, List.length_append, length_byteBits]
    omega

/-- What reading on raises, one of the two reads raised. -/
theorem Fetched.raised_of_bind_raised {α β : Type} {x : Fetched α} {f : α → Parser → Fetched β} {e : ErrKind}
    (h : x.bind f = .raised e q) : x = .raised e q ∨ ∃ a r, x = .ok a r ∧ f a r = .raised e q := by
  cases x with
  | ok a r => exact .inr ⟨a, r, rfl, h⟩
  | raised e' r =>
    cases h
    exact .inl rfl
  | rejected r => cases h

theorem Parser.needLoop_raised_bp {n : Nat} {e : ErrKind} :
    ∀ (fuel : Nat) (p : Parser), Parser.needLoop fuel n p = .raised e q → q.bp = p.bp := by
  intro fuel
  induction fuel with
  | zero => exact fun p h => nomatch h
  | succ fuel ih =>
    intro p h
    obtain ⟨hok, hraised⟩ := p.fetchByte_bp
    unfold Parser.needLoop at h
    split at h
    · cases h
    · rcases Fetched.raised_of_bind_raised h with hfetch | ⟨_, r, hfetch, hrest⟩
      · exact hraised e q hfetch
      · exact (ih r hrest).trans (hok r hfetch)

theorem Parser.getBits_raised_bp {n : Nat} {e : ErrKind} (h : p.getBits n = .raised e q) : q.bp = p.bp := by
  rcases Fetched.raised_of_bind_raised h with hneed | ⟨_, r, -, hpeek⟩
  · exact Parser.needLoop_raised_bp n p hneed
  · cases hpeek

/-! ### `GetBits` (R226) -/

/-- Where the stream still holds the field, `GetBits` answers its number and consumes exactly its bits. -/
theorem Parser.getBits_reads {n : Nat} (hc : p.Coherent) (hl : p.Lazy) (hn : n ≤ p.upcoming.length) :
    ∃ q, p.getBits n = .ok (bitsToNat (p.upcoming.take n)) q ∧ q.upcoming = p.upcoming.drop n ∧
      q.bp = p.bp + n ∧ p.Past q := by
  have hlen : (p.upcoming.take n).length = n := by simpa using hn
  obtain ⟨q, hget, hup, -⟩ := Parser.getBits_answers hc (List.take_append_drop n p.upcoming).symm
  rw [hlen] at hget
  have hpast : p.Past q := by
    have h := Parser.getBits_yields n hc hl
    rw [hget] at h
    exact h.2
  refine ⟨q, hget, hup, ?_, hpast⟩
  have hp := hc.bp_add_length_upcoming
  have hq := hpast.coherent.bp_add_length_upcoming
  rw [hup, List.length_drop, hpast.input] at hq
  omega

/-- Settles O34: the bits consumed are counted by those left to come, and a fetch moves no bit past `BP`. -/
theorem getBitsReadsField : Obligations.GetBitsReadsField := by
  intro p n hc hl _
  refine ⟨fun hn => ?_, fun hn => ?_, rfl⟩
  · obtain ⟨q, hget, hup, hbp, hpast⟩ := Parser.getBits_reads hc hl hn
    exact ⟨q, hget, hup, hbp, hpast.input, hpast.coherent, hpast.lazy,
      Parser.ipos_eq_of_lazy hpast.coherent hpast.lazy⟩
  · obtain ⟨q, hget, hinput, -⟩ := p.getBits_eos n hc.eosHonest hn
    exact ⟨q, hget, hinput, Parser.getBits_raised_bp hget⟩

/-! ### `AlignByte` (R227) -/

/-- The bits buffered beyond whole bytes are those from `BP` to the next byte of the stream. -/
theorem Parser.Coherent.bitcnt_mod (hp : p.Coherent) : p.bitcnt % 8 = (8 - p.bp % 8) % 8 := by
  obtain ⟨-, hb, -, -⟩ := hp
  unfold Parser.bp
  omega

theorem Parser.Coherent.alignByte_bp (hp : p.Coherent) : p.alignByte.bp = p.bp + (8 - p.bp % 8) % 8 := by
  rw [← hp.bitcnt_mod]
  exact hp.dropBits_bp (Nat.mod_le _ _)

/-- Settles O35: the bits dropped are those beyond whole bytes, which is all of them where at most 7 are buffered. -/
theorem alignSkipsToByte : Obligations.AlignSkipsToByte := by
  intro p hc
  have hbp := hc.alignByte_bp
  refine ⟨rfl, hbp, by omega, rfl, rfl, rfl, hc.dropBits (Nat.mod_le _ _), fun hl => ?_⟩
  have hmod : p.bitcnt % 8 = p.bitcnt := Nat.mod_eq_of_lt (Nat.lt_succ_of_le hl)
  show p.bitbuf.drop (p.bitcnt % 8) = []
  rw [hmod]
  exact List.drop_length

end Sys2Proof
end

section
/-! Proofs about the block header: what each type of block begins with, and that the fixed tables are built once. -/

namespace Sys2Proof.Machine

variable {s : State}

/-! ### The fixed tables (R34, R146) -/

/-- `Build` of an array that passes the health check. -/
theorem buildTable_of_healthy {cfg : Cfg} {params : Params} {which : Which} {lens : List Nat} {maxl : Nat} {k : Kind}
    (h : checkHealth params.emptyDistCode which lens maxl = some k) :
    buildTable cfg params which lens maxl =
      some { kind := k, maxbits := maxLen lens, store := buildStore cfg lens } := by
  simp only [buildTable, h]

theorem maxLen_fixedAlphabets :
    maxLen fixedLiteralLengthAlphabet = 9 ∧ maxLen fixedDistanceAlphabet = 5 := by
  decide +kernel

/-- The two tables that the first fixed block builds, complete and with their longest lengths. -/
theorem buildFixed_reg_of_not_built (h : s.fixedBuilt = false) :
    (buildFixed s).reg = { s.reg with
      fixlltab := some { kind := .complete, maxbits := 9, store := buildStore s.cfg fixedLiteralLengthAlphabet }
      fixdtab := some { kind := .complete, maxbits := 5, store := buildStore s.cfg fixedDistanceAlphabet } } := by
  obtain ⟨hll, hd⟩ := fixedAlphabets_healthy s.params.emptyDistCode
  obtain ⟨hmaxll, hmaxd⟩ := maxLen_fixedAlphabets
  simp [buildFixed, h, buildTable_of_healthy hll, buildTable_of_healthy hd, hmaxll, hmaxd]

theorem buildFixed_of_built (h : s.fixedBuilt = true) : buildFixed s = s :=
  if_pos h

/-- What building the fixed tables writes, whether or not they stood before. -/
theorem buildFixed_frame (s : State) :
    buildFixed s = { s with
      fixedBuilt := true
      reg := { s.reg with
        fixlltab := (buildFixed s).reg.fixlltab, fixdtab := (buildFixed s).reg.fixdtab } } := by
  cases h : s.fixedBuilt with
  | true => rw [buildFixed_of_built h, ← h]
  | false => simp [buildFixed, h]

/-! ### Entering a fixed block (R41, R243) -/

/-- Code lengths up to 15 are held in 4 bits. -/
theorem map_toNat_map_ofNat {lens : List Nat} (h : ∀ l ∈ lens, l ≤ 15) :
    (lens.map (BitVec.ofNat 4)).map BitVec.toNat = lens := by
  rw [List.map_map]
  refine (List.map_congr_left fun l hl => ?_).trans (List.map_id lens)
  exact (BitVec.toNat_ofNat l 4).trans (Nat.mod_eq_of_lt (Nat.lt_succ_of_le (h l hl)))

/-- Settles O2: the block's tables are those that `buildFixed` leaves, of which the health check of the fixed alphabets
gives the kind. -/
theorem headerEntersFixed : Obligations.HeaderEntersFixed := by
  intro i final s hrow
  refine ⟨enterFixed (recordHeader final 1 s), exec_of_headerRow hrow, ?_, map_toNat_map_ofNat fixedAlphabets_le.1,
    map_toNat_map_ofNat fixedAlphabets_le.2, fun hbuilt => ?_, fun hbuilt => ?_⟩
  · exact congrArg useFixed (buildFixed_frame (recordHeader final 1 s))
  · have hkept := buildFixed_of_built (s := recordHeader final 1 s) hbuilt
    rw [enterFixed, hkept]
    exact ⟨rfl, rfl⟩
  · have hnew := buildFixed_reg_of_not_built (s := recordHeader final 1 s) hbuilt
    rw [enterFixed, useFixed_reg, hnew]
    exact ⟨_, _, rfl, rfl, rfl, rfl, rfl, rfl, rfl, rfl⟩

/-! ### The other types (R242, R244, R246) -/

/-- Settles O1: the action of the type, after the two fields were recorded. -/
theorem headerEntersBlock : Obligations.HeaderEntersBlock :=
  fun _ _ _ => ⟨fun hrow => exec_of_headerRow hrow, fun hrow => exec_of_headerRow hrow⟩

/-- Settles O3: the fields recorded before the fault are registers, which R412 leaves unspecified. -/
theorem reservedTypeFaults : Obligations.ReservedTypeFaults := fun _ final s hrow herr =>
  ⟨_, exec_of_headerRow hrow, raise_raised .invalidBlockType (recordHeader final 3 s) herr⟩

end Sys2Proof.Machine
end

section
/-! Proofs about stored blocks: the check of a header, the copy that it starts, and the byte that is appended and
counted. -/

namespace Sys2Proof.Machine

variable {s t : State}

/-! ### The header (R256) -/

/-- The check compares the bits, which is adding up to 0xFFFF as numbers. -/
theorem lenCheck_iff {len nlen : BitVec 16} : lenCheck len nlen = true ↔ len.toNat + nlen.toNat = 65535 := by
  rw [lenCheck, beq_iff_eq]
  bv_omega

/-- The end of a block writes only the phase (R245). -/
theorem endBlock_eq (s : State) : endBlock s = { s with phase := afterBlock s } := rfl

theorem startStored_zero (s : State) :
    startStored 0 s = { s with phase := afterBlock s, reg := { s.reg with srem := 0 } } :=
  if_pos rfl

theorem startStored_of_ne_zero {len : BitVec 16} (h : len ≠ 0) (s : State) :
    startStored len s = { s with reg := { s.reg with srem := len, sub := .sData } } :=
  if_neg h

/-- Settles O4: the header passes the check, and the copy starts after `LEN` and `NLEN` were recorded. -/
theorem storedHeaderAccepts : Obligations.StoredHeaderAccepts := by
  intro len nlen s hsum
  refine ⟨startStored len (recordLen len nlen s), if_pos (lenCheck_iff.mpr hsum), fun hzero => ?_, fun hne => ?_⟩
  · subst hzero
    exact startStored_zero _
  · exact startStored_of_ne_zero hne _

/-- Settles O5: the fields recorded before the fault are registers, which R412 leaves unspecified. -/
theorem storedHeaderMismatchFaults : Obligations.StoredHeaderMismatchFaults := fun len nlen s hsum herr =>
  ⟨_, if_neg (mt lenCheck_iff.mp hsum), raise_raised .lengthCheckMismatch (recordLen len nlen s) herr⟩

/-! ### A byte (R182, R258) -/

/-- A position retained before and after bytes were added at the end reads as before (R181). -/
theorem memRead_eq_of_out {b b' : Buf} {bytes : List Byte} (hout : b'.out = b.out ++ bytes) {p : Nat}
    (hlo : b.rlo ≤ p) (hlo' : b'.rlo ≤ p) (hp : p < Buf.total b) : Buf.memRead b' p = Buf.memRead b p := by
  rw [Buf.memRead, Buf.memRead, if_pos hlo, if_pos hlo', hout]
  exact List.getElem?_append_left hp

/-- What the logical output shows decides what is stored; the layout has no part in it. -/
theorem Stores.of_out {bytes : List Byte} (hout : t.buf.out = s.buf.out ++ bytes)
    (hdrained : t.buf.drained = s.buf.drained) : Stores bytes s t :=
  ⟨hout, hdrained, fun _ hlo hlo' hp => memRead_eq_of_out hout hlo hlo' hp⟩

/-- `Append(v)` stores one byte (R182). -/
theorem append_stores (v : Byte) (s : State) : Stores [v] s (append v s) :=
  .of_out (Buf_append_out _ _ _ _ _) (Buf_append_drained _ _ _ _ _)

/-- One byte fewer is left, and the block ends when it was the last. -/
theorem countStored_eq (s : State) :
    countStored s = { s with
      phase := if s.reg.srem = 1 then afterBlock s else s.phase, reg := { s.reg with srem := s.reg.srem - 1 } } := by
  have hlast : s.reg.srem - 1 = 0 ↔ s.reg.srem = 1 := sub_eq_zero
  unfold countStored
  split
  · next h => rw [if_pos (hlast.mp h), endBlock_eq]; rfl
  · next h => rw [if_neg (mt hlast.mpr h)]

/-- Settles O6: counting the byte leaves the run buffer as the append made it, and reads only what the append kept. -/
theorem storedByteCopies : Obligations.StoredByteCopies := by
  intro v s
  have hstores := append_stores v s
  refine ⟨countStored (append v s), rfl, ?_, ?_⟩
  · rwa [Stores, countStored_buf]
  · rw [countStored_eq]
    rfl

end Sys2Proof.Machine
end

section
/-! Proofs about the header of a dynamic block: the counts and the code-length code, the code lengths that its
symbols write, and the two tables built from them. -/

namespace Sys2Proof.Machine

variable {s : State}

/-! ### The counts and the code-length code (R271, R273) -/

/-- Settles O7: `CLL` is made anew of zeros. -/
theorem countsRecorded : Obligations.CountsRecorded := fun _ _ _ _ =>
  ⟨_, rfl, rfl, List.length_replicate, fun _ hl => List.eq_of_mem_replicate hl⟩

theorem execDynCllen_of_order {c : Nat} (len : BitVec 3) (h : clOrder[s.reg.clidx]? = some c) :
    execDynCllen len s = .next { s with
      reg := { s.reg with cll := s.reg.cll.set c len, clidx := s.reg.clidx + 1 } } := by
  simp only [execDynCllen, h]

theorem execDynCllen_past_order (len : BitVec 3) (h : clOrder[s.reg.clidx]? = none) :
    execDynCllen len s = .next { s with reg := { s.reg with clidx := s.reg.clidx + 1 } } := by
  simp only [execDynCllen, h]

/-- Settles O8: the order gives one position, and past its end none. -/
theorem clLengthWritten : Obligations.ClLengthWritten := by
  intro len s
  rcases hpos : clOrder[s.reg.clidx]? with _ | d
  · exact ⟨_, execDynCllen_past_order len hpos, rfl, nofun, fun _ _ => rfl⟩
  · refine ⟨_, execDynCllen_of_order len hpos, rfl, fun c hc hlt => ?_, fun c hne => ?_⟩
    · cases hc
      exact List.getElem?_set_self hlt
    · exact List.getElem?_set_ne fun hd => hne (congrArg some hd)

/-! ### Code lengths (R276 to R282) -/

/-- What follows a code length writes only `SUB` (R276, R282). -/
theorem afterLens_eq (s : State) :
    afterLens s = { s with reg := { s.reg with sub := subAfterLens s s.reg.lidx } } := by
  unfold afterLens subAfterLens
  split <;> rfl

/-- The run of lengths that `putLens` writes, at its size and with everything around it kept. -/
theorem putLens_lens (r : Nat) (v : BitVec 4) (s : State) :
    (putLens r v s).reg.lens.length = s.reg.lens.length ∧
      (∀ k, s.reg.lidx ≤ k → k < s.reg.lidx + r → k < s.reg.lens.length →
        (putLens r v s).reg.lens[k]? = some v) ∧
      ∀ k, k < s.reg.lidx ∨ s.reg.lidx + r ≤ k → (putLens r v s).reg.lens[k]? = s.reg.lens[k]? := by
  have hget : ∀ k, (putLens r v s).reg.lens[k]? = _ := foldl_set_getElem? (s.reg.lidx + ·) v s.reg.lens r
  refine ⟨length_foldl_set _ _ _ _, fun k hlo hhi hlt => ?_, fun k hout => ?_⟩
  · rw [hget, if_pos ⟨k - s.reg.lidx, by omega, by omega⟩, List.getElem?_eq_getElem hlt]
    rfl
  · rw [hget, if_neg]
    rintro ⟨j, hj, rfl⟩
    omega

/-- The row of a length writes that length (R277). -/
theorem exec_of_clLenRow {i : Instr} {v : BitVec 4} (h : clLenRow i = some v) : exec i s = clLen v s := by
  cases i with
  | clLen0 | clLen1 | clLen2 | clLen3 | clLen4 | clLen5 | clLen6 | clLen7 | clLen8 | clLen9 | clLen10
  | clLen11 | clLen12 | clLen13 | clLen14 | clLen15 => cases h; rfl
  | _ => cases h

/-- The row of a zero run writes as many zeros (R279, R280). -/
theorem exec_of_zeroRunRow {i : Instr} {r : Nat} (h : zeroRunRow i = some r) : exec i s = zeroLens r s := by
  cases i with
  | clZrep17 | clZrep18 => cases h; rfl
  | _ => cases h

/-- Settles O10: one length at `LIDX`, which becomes the previous one. -/
theorem clLengthProduced : Obligations.ClLengthProduced := by
  intro i v s hrow
  obtain ⟨hlength, hrun, hrest⟩ := putLens_lens 1 v s
  rw [exec_of_clLenRow hrow, clLen, afterLens_eq]
  refine ⟨_, rfl, rfl, hlength, fun hlt => hrun _ le_rfl (Nat.lt_succ_self _) hlt, fun k hk => hrest k ?_⟩
  exact (Nat.lt_or_gt_of_ne hk).imp_right Nat.succ_le_of_lt

theorem repeatLens_of_fits {r : Nat} {v : BitVec 4} (h : s.reg.lidx + r ≤ lensWanted s) :
    repeatLens r v s = .next (afterLens (putLens r v s)) :=
  if_neg h.not_gt

theorem repeatLens_of_overrun {r : Nat} {v : BitVec 4} (h : lensWanted s < s.reg.lidx + r) :
    repeatLens r v s = .next (raise .incompleteCode s) :=
  if_pos h

theorem zeroLens_of_fits {r : Nat} (h : s.reg.lidx + r ≤ lensWanted s) :
    zeroLens r s = .next (afterLens (setPrev 0 (putLens r 0 s))) :=
  if_neg h.not_gt

theorem zeroLens_of_overrun {r : Nat} (h : lensWanted s < s.reg.lidx + r) :
    zeroLens r s = .next (raise .incompleteCode s) :=
  if_pos h

/-- Settles O12: the run fits, and its last length is 0. -/
theorem zeroRun : Obligations.ZeroRun := by
  intro i r s hrow hfits
  rw [exec_of_zeroRunRow hrow, zeroLens_of_fits hfits, afterLens_eq]
  exact ⟨_, rfl, rfl, putLens_lens r 0 s⟩

/-- The length that `CL.REP16` repeats: the previous one, or 0 where there is none and the parameter lets it
(R278). -/
def RepeatsLength (s : State) (v : BitVec 4) : Prop :=
  s.reg.prevValid = true ∧ v = s.reg.prev ∨
    s.reg.prevValid = false ∧ s.params.rep16AtStart = .repeatZero ∧ v = 0

theorem execClRep16_of_repeats {v : BitVec 4} (x : BitVec 2) (h : RepeatsLength s v) :
    execClRep16 x s = repeatLens (3 + x.toNat) v { s with reg := { s.reg with prev := v } } := by
  unfold execClRep16
  rcases h with ⟨hvalid, rfl⟩ | ⟨hvalid, hstart, rfl⟩
  · rw [if_pos hvalid]
    rfl
  · rw [hvalid, hstart]
    rfl

theorem execClRep16_of_fault (x : BitVec 2) (hvalid : s.reg.prevValid = false)
    (hstart : s.params.rep16AtStart = .fault) : execClRep16 x s = .next (raise .incompleteCode s) := by
  rw [execClRep16, hvalid, hstart]
  rfl

/-- `CL.REP16` either repeats a length or faults for want of one. -/
theorem repeatsLength_or_fault (s : State) :
    (∃ v, RepeatsLength s v) ∨ s.reg.prevValid = false ∧ s.params.rep16AtStart = .fault := by
  cases hvalid : s.reg.prevValid with
  | true => exact .inl ⟨_, .inl ⟨hvalid, rfl⟩⟩
  | false =>
    cases hstart : s.params.rep16AtStart with
    | fault => exact .inr ⟨rfl, rfl⟩
    | repeatZero => exact .inl ⟨0, .inr ⟨hvalid, hstart, rfl⟩⟩

/-- Settles O11: the repeat fits, from the state whose `PREV` is the length repeated. -/
theorem repeatPrevious : Obligations.RepeatPrevious := by
  intro x s v hfits hv
  refine ⟨_, (execClRep16_of_repeats x hv).trans (repeatLens_of_fits hfits), ?_⟩
  rw [afterLens_eq]
  exact ⟨rfl, putLens_lens (3 + x.toNat) v s⟩

/-- A fault after registers were written is a fault of the state before: R412 leaves the registers unspecified. -/
theorem raise_raised_of_reg (e : ErrKind) (r : Regs) (h : s.err = none) :
    Raised e s (raise e { s with reg := r }) :=
  raise_raised e { s with reg := r } h

/-- Settles O13: each overrun is found before anything is written; with no length to repeat, the fault comes first. -/
theorem repeatFaults : Obligations.RepeatFaults := by
  intro s herr
  have hraised := raise_raised .incompleteCode s herr
  refine ⟨fun i r hrow hover => ?_, fun x hover => ?_, fun x hvalid hstart => ?_⟩
  · exact ⟨_, (exec_of_zeroRunRow hrow).trans (zeroLens_of_overrun hover), hraised⟩
  · rcases repeatsLength_or_fault s with ⟨v, hv⟩ | ⟨hvalid, hstart⟩
    · exact ⟨_, (execClRep16_of_repeats x hv).trans (repeatLens_of_overrun hover),
        raise_raised_of_reg .incompleteCode _ herr⟩
    · exact ⟨_, execClRep16_of_fault x hvalid hstart, hraised⟩
  · exact ⟨_, execClRep16_of_fault x hvalid hstart, hraised⟩

/-! ### The health check (R138, R139) -/

/-- The Kraft sum counts the used symbols only. -/
theorem kraftSum_eq_sum_filter (lens : List Nat) (m : Nat) :
    kraftSum lens m = ((lens.filter fun l => l != 0).map fun l => 2 ^ (m - l)).sum := by
  induction lens with
  | nil => rfl
  | cons l rest ih => by_cases hl : l = 0 <;> simp [kraftSum_cons, hl, ih]

theorem usedCount_eq_zero_iff {lens : List Nat} : usedCount lens = 0 ↔ ∀ l ∈ lens, l = 0 := by
  simp [usedCount, List.countP_eq_zero]

/-- One used symbol, of length 1, as the list of the used lengths. -/
theorem used_eq_singleton_iff {lens : List Nat} :
    usedCount lens = 1 ∧ lens.contains 1 = true ↔ (lens.filter fun l => l != 0) = [1] := by
  have hmem : lens.contains 1 = true ↔ 1 ∈ lens.filter fun l => l != 0 := by simp
  rw [usedCount, List.countP_eq_length_filter, hmem, List.length_eq_one_iff]
  constructor
  · rintro ⟨⟨l, hl⟩, h1⟩
    rw [hl, List.mem_singleton] at h1
    rw [hl, h1]
  · intro h
    rw [h]
    exact ⟨⟨1, rfl⟩, List.mem_singleton.mpr rfl⟩

/-- An array without a used symbol (R139). -/
theorem checkHealth_of_unused {e : EmptyDistCode} {which : Which} {lens : List Nat} {maxl : Nat}
    (h : ∀ l ∈ lens, l = 0) :
    checkHealth e which lens maxl = if which = .d ∧ e = .acceptFaultOnUse then some .empty else none := by
  unfold checkHealth
  rw [if_pos (usedCount_eq_zero_iff.mpr h)]
  cases which <;> cases e <;> rfl

/-- An array with a used symbol: its Kraft sum, then the code with one codeword (R138, R139). -/
theorem checkHealth_of_used {e : EmptyDistCode} {which : Which} {lens : List Nat} {maxl : Nat}
    (h : ∃ l ∈ lens, l ≠ 0) :
    checkHealth e which lens maxl =
      if ((lens.filter fun l => l != 0).map fun l => 2 ^ (maxl - l)).sum = 2 ^ maxl then some .complete
      else if (lens.filter fun l => l != 0) = [1] then some .degenerate
      else none := by
  have hused : usedCount lens ≠ 0 := by
    rw [Ne, usedCount_eq_zero_iff]
    push Not
    exact h
  simp only [checkHealth, if_neg hused, kraftSum_eq_sum_filter, used_eq_singleton_iff]

/-! ### The tables (R275, R284) -/

theorem execDynClbuild_of_healthy {k : Kind}
    (h : checkHealth s.params.emptyDistCode .cl (s.reg.cll.map BitVec.toNat) maxBitsCl = some k) :
    execDynClbuild s = .next { s with
      reg := { s.reg with
        cltab := some { kind := k, maxbits := maxLen (s.reg.cll.map BitVec.toNat)
                        store := buildStore s.cfg (s.reg.cll.map BitVec.toNat) }
        lidx := 0, prevValid := false, prev := 0, sub := .dLens } } := by
  simp only [execDynClbuild, buildTable_of_healthy h]

theorem execDynClbuild_of_unhealthy
    (h : checkHealth s.params.emptyDistCode .cl (s.reg.cll.map BitVec.toNat) maxBitsCl = none) :
    execDynClbuild s = .next (raise .incompleteCode s) := by
  simp only [execDynClbuild, (buildTable_eq_none ..).mpr h]

/-- Settles O9: the table is the one that `Build` makes of a healthy array. -/
theorem clTableBuilt : Obligations.ClTableBuilt := fun _ _ hhealthy =>
  ⟨_, _, execDynClbuild_of_healthy hhealthy, rfl, rfl⟩

theorem buildData_of_healthy {kl kd : Kind}
    (hll : checkHealth s.params.emptyDistCode .ll (s.reg.ll.map BitVec.toNat) maxBitsData = some kl)
    (hdl : checkHealth s.params.emptyDistCode .d (s.reg.dl.map BitVec.toNat) maxBitsData = some kd) :
    buildData s = .next { s with
      reg := { s.reg with
        lltab := some { kind := kl, maxbits := maxLen (s.reg.ll.map BitVec.toNat)
                        store := buildStore s.cfg (s.reg.ll.map BitVec.toNat) }
        dtab := some { kind := kd, maxbits := maxLen (s.reg.dl.map BitVec.toNat)
                       store := buildStore s.cfg (s.reg.dl.map BitVec.toNat) }
        cltab := none, sub := .dData } } := by
  simp only [buildData, buildTable_of_healthy hll, buildTable_of_healthy hdl]

/-- Whichever of the two checks fails, and in either order, the fault is the same. -/
theorem buildData_of_unhealthy
    (h : checkHealth s.params.emptyDistCode .ll (s.reg.ll.map BitVec.toNat) maxBitsData = none ∨
      checkHealth s.params.emptyDistCode .d (s.reg.dl.map BitVec.toNat) maxBitsData = none) :
    buildData s = .next (raise .incompleteCode s) := by
  unfold buildData
  split
  · rfl
  · next tl htl =>
    rcases h with hll | hdl
    · rw [(buildTable_eq_none ..).mpr hll] at htl
      cases htl
    · rw [(buildTable_eq_none ..).mpr hdl]

/-- An array given entry by entry. -/
theorem eq_map_range {α : Type} {l : List α} {n : Nat} {f : Nat → α} (hlength : l.length = n)
    (h : ∀ k < n, l[k]? = some (f k)) : l = (List.range n).map f := by
  refine List.ext_getElem? fun k => ?_
  by_cases hk : k < n
  · simp [h k hk, hk]
  · simp [hlength, hk]

/-- Settles O14: the two arrays are those that `splitLens` writes, and both pass. -/
theorem dataTablesBuilt : Obligations.DataTablesBuilt := by
  intro s ll dl kl kd hlll hldl hll hdl hkl hkd
  obtain rfl : ll = dynLl s.reg := eq_map_range hlll hll
  obtain rfl : dl = dynDl s.reg := eq_map_range hldl hdl
  exact buildData_of_healthy (s := splitLens s) hkl hkd

/-- Settles O15: the check by cases on the used symbols, and the fault wherever `Build` has no table. -/
theorem unhealthyCodeFaults : Obligations.UnhealthyCodeFaults := by
  refine ⟨fun _ _ _ _ _ => ⟨checkHealth_of_unused, checkHealth_of_used⟩,
    fun s herr => ⟨fun hcl => ?_, fun hdata => ?_⟩⟩
  · exact ⟨_, execDynClbuild_of_unhealthy hcl, raise_raised .incompleteCode s herr⟩
  · exact ⟨_, buildData_of_unhealthy (s := splitLens s) hdata, raise_raised_of_reg .incompleteCode _ herr⟩

end Sys2Proof.Machine
end

section
/-! Proofs about the data of a Huffman block: which operation a row executes, the bytes that a copy appends, and the
distances and symbols that raise. -/

namespace Sys2Proof.Machine

variable {s : State}

/-! ### Literals (R101, R302) -/

theorem exec_of_literalRow {i : Instr} {b : Byte} (h : literalRow i = some b) : exec i s = execLit b s := by
  cases i with
  | lit | fixedLl0To143 | fixedLl144To255 => cases h; rfl
  | _ => cases h

/-- A literal writes its byte to `SYM` as it is (R33). -/
theorem setSym_byte (b : Byte) (s : State) :
    setSym b.toNat s = { s with reg := { s.reg with sym := b.setWidth 9 } } := by
  rw [setSym, BitVec.ofNat_toNat]

/-- Settles O16: the append follows the record of `SYM`, which is a register. -/
theorem literalAppends : Obligations.LiteralAppends := by
  intro i b s hrow
  refine ⟨append b (setSym b.toNat s), exec_of_literalRow hrow, append_stores b (setSym b.toNat s), ?_⟩
  rw [setSym_byte]
  rfl

/-! ### The end of a block (R101, R303) -/

theorem exec_of_eobRow {i : Instr} (h : eobRow i = true) : exec i s = execEob s := by
  cases i with
  | eob => rfl
  | fixedLl256To279 n =>
    obtain rfl : n = 0 := beq_iff_eq.mp h
    rfl
  | _ => cases h

/-- Settles O17: `SYM` is recorded, and `endBlock` writes the phase. -/
theorem endOfBlock : Obligations.EndOfBlock := fun _ _ hrow => exec_of_eobRow hrow

/-! ### The rows of a match and of a distance part (R98, R100, R101, R304, R310) -/

/-- The largest base is that of symbol 285 in `DEFLATE` mode. -/
theorem lbase_le (mode : Mode) (sym : Nat) : lbase mode sym ≤ 258 := by
  have htable : ∀ r ∈ lengthTable, r.2 ≤ 258 := by decide
  have hrow : ∀ r, lengthRow mode sym = some r → r.2 ≤ 258 := by
    intro r hr
    unfold lengthRow at hr
    split at hr
    · cases hr
    · split at hr
      · cases mode <;> cases hr <;> decide
      · exact htable r (List.mem_of_getElem? hr)
  unfold lbase
  split
  · next e b hr => exact hrow (e, b) hr
  · exact Nat.zero_le _

/-- The 17 bits of `MLEN` hold every base with an extra field of at most 16 bits. -/
theorem lengthOf_lt (mode : Mode) (sym : Nat) {x : Nat} (hx : x < 2 ^ 16) : lengthOf mode sym x < 2 ^ 17 := by
  have hbase := lbase_le mode sym
  unfold lengthOf
  omega

theorem symbolOp_of_length {sym x : Nat} {d : DistField} (h : 256 < sym) (h' : sym ≤ 285) :
    symbolOp sym x d s = matchOp sym (lengthOf s.cfg.mode sym x) d s :=
  (if_neg (by omega)).trans (if_pos h')

/-- A match row executes `MATCH` with its length symbol and the length that the operand tables give, which fits
`MLEN`. -/
theorem exec_of_matchRow {i : Instr} {sym len : Nat} {d : DistField}
    (h : matchRow s.cfg.mode i = some (sym, len, d)) : exec i s = matchOp sym len d s ∧ len < 2 ^ 17 := by
  cases i with
  | matchL257 | matchL258 | matchL259 | matchL260 | matchL261 | matchL262 | matchL263 | matchL264
  | matchL265 | matchL266 | matchL267 | matchL268 | matchL269 | matchL270 | matchL271 | matchL272
  | matchL273 | matchL274 | matchL275 | matchL276 | matchL277 | matchL278 | matchL279 | matchL280
  | matchL281 | matchL282 | matchL283 | matchL284 | matchL285 | matchL285D64 =>
    cases h
    exact ⟨rfl, by omega⟩
  | fixedLl256To279 | fixedLl280To287 =>
    obtain ⟨hn, hrow⟩ := Option.ite_none_right_eq_some.mp h
    cases hrow
    exact ⟨symbolOp_of_length (by omega) (by omega), lengthOf_lt _ _ (by omega)⟩
  | _ => cases h

theorem exec_of_distPartRow {i : Instr} {c x : Nat} (h : distPartRow i = some (c, x)) :
    exec i s = distancePart c x s := by
  cases i with
  | dist0 | dist1 | dist2 | dist3 | dist4 | dist5 | dist6 | dist7 | dist8 | dist9 | dist10 | dist11 | dist12
  | dist13 | dist14 | dist15 | dist16 | dist17 | dist18 | dist19 | dist20 | dist21 | dist22 | dist23 | dist24
  | dist25 | dist26 | dist27 | dist28 | dist29 | dist30D64 | dist31D64 | fixedD0To31 => cases h; rfl
  | _ => cases h

/-! ### The bytes of a copy (R183) -/

theorem length_copied (d n : Nat) (out : List Byte) : (copied d n out).length = n := by
  induction n generalizing out with
  | zero => rfl
  | succ n ih => exact congrArg Nat.succ (ih _)

/-- A copy of more bytes than its distance repeats the bytes that it began with: after the first byte the copy goes on
from an output that is one longer, where the last of the `d` bytes is the byte just appended. -/
theorem copied_getElem? {d n k : Nat} {out : List Byte} (hd : 1 ≤ d) (hout : d ≤ out.length) (hk : k < n) :
    (copied d n out)[k]? = out[out.length - d + k % d]? := by
  induction n generalizing k out with
  | zero => exact absurd hk (Nat.not_lt_zero k)
  | succ n ih =>
    cases k with
    | zero => simp [copied, show out.length - d < out.length by omega]
    | succ k =>
      have hmod : k % d < d := Nat.mod_lt k hd
      have hrest := ih (k := k) (out := out ++ [out.getD (out.length - d) 0]) (by simp; omega) (by omega)
      rw [copied, List.getElem?_cons_succ, hrest, List.length_append, List.length_singleton, ← Nat.mod_add_mod k d 1]
      by_cases hlast : k % d + 1 = d
      · have hindex : out.length + 1 - d + k % d = out.length := by omega
        rw [hindex, hlast, Nat.mod_self, List.getElem?_concat_length]
        simp [show out.length - d < out.length by omega]
      · have hindex : out.length + 1 - d + k % d = out.length - d + (k % d + 1) := by omega
        rw [hindex, Nat.mod_eq_of_lt (show k % d + 1 < d by omega), List.getElem?_append_left (by omega)]

/-! ### Legal distances (R304, R315, R316) -/

/-- The distance part at a legal distance: the bytes it stores, and what it records. -/
theorem distancePart_copies {c x dist : Nat} (hdist : distanceOf s.cfg.mode c x = some dist) (ht : dist ≤ s.total)
    (hw : dist ≤ s.cfg.wsize) (hret : Buf.Retains s.cfg.wsize s.buf) :
    ∃ t bytes, distancePart c x s = .next t ∧ Stores bytes s t ∧ bytes.length = s.reg.mlen.toNat ∧
      (∀ k < s.reg.mlen.toNat, bytes[k]? = s.buf.out[s.total - dist + k % dist]?) ∧
      Buf.Retains s.cfg.wsize t.buf ∧
      t = { s with
        reg := { s.reg with dsym := BitVec.ofNat 5 c, mdist := BitVec.ofNat 17 dist }
        buf := t.buf, free := t.free } := by
  obtain ⟨t, hexec, hframe, hout, hdrained, hret'⟩ := distancePart_legal c x dist s hdist ht hw hret
  exact ⟨t, copied dist s.reg.mlen.toNat s.buf.out, hexec, .of_out hout hdrained, length_copied _ _ _,
    fun k hk => copied_getElem? (one_le_distanceOf _ _ _ _ hdist) ht hk, hret', hframe⟩

/-- Settles O18: the match records `SYM` and `MLEN`, which holds the length, and its distance part copies. -/
theorem matchCopies : Obligations.MatchCopies := by
  intro i s sym len dist d hrow hdist ht hw hret
  obtain ⟨hmatch, hlen⟩ := exec_of_matchRow hrow
  have hmlen : (BitVec.ofNat 17 len).toNat = len := Nat.mod_eq_of_lt hlen
  obtain ⟨t, bytes, hcopy, hstores, hlength, hbytes, hret', hframe⟩ := distancePart_copies
    (s := { s with reg := { s.reg with sym := BitVec.ofNat 9 sym, mlen := BitVec.ofNat 17 len } }) hdist ht hw hret
  simp only [hmlen, BitVec.ofNat_toNat, BitVec.setWidth_eq] at hlength hbytes hframe
  have hwsize : t.cfg.wsize = s.cfg.wsize := by rw [hframe]
  exact ⟨t, bytes, hmatch.trans hcopy, hstores, hlength, hbytes, hwsize ▸ hret', hframe⟩

/-- Settles O19: the row is the distance part alone, with the `MLEN` recorded before. -/
theorem distancePartCopies : Obligations.DistancePartCopies := by
  intro i s c x dist hrow hdist ht hw hret
  obtain ⟨t, bytes, hexec, hstores, hlength, hbytes, -, hframe⟩ := distancePart_copies hdist ht hw hret
  exact ⟨t, bytes, (exec_of_distPartRow hrow).trans hexec, hstores, hlength, hbytes, hframe⟩

/-! ### Faults (R308, R311, R315) -/

/-- A distance part without a legal distance raises, whatever registers were written before it. -/
theorem distancePart_raised {c x : Nat} (r : Regs) (herr : s.err = none)
    (h : ∀ dist, distanceOf s.cfg.mode c x = some dist → s.total < dist ∨ s.cfg.wsize < dist) :
    ∃ t, distancePart c x { s with reg := r } = .next t ∧ Raised .invalidBackReference s t := by
  obtain ⟨m, hexec, hm⟩ := distancePart_illegal c x { s with reg := r } h
  refine ⟨_, hexec, ?_⟩
  rw [hm]
  exact raise_raised_of_reg .invalidBackReference m.reg herr

/-- Settles O20: a match row and a distance row both end in a distance part, which makes the check. -/
theorem illegalDistanceFaults : Obligations.IllegalDistanceFaults := by
  refine fun s herr => ⟨fun i sym len d hrow hillegal => ?_, fun i c x hrow hillegal => ?_⟩
  · rw [(exec_of_matchRow hrow).1]
    exact distancePart_raised _ herr hillegal
  · rw [exec_of_distPartRow hrow]
    exact distancePart_raised s.reg herr hillegal

theorem symbolOp_of_invalid {sym x : Nat} {d : DistField} (h : 285 < sym) :
    symbolOp sym x d s = execLlInvalid (BitVec.ofNat 1 sym) s :=
  (if_neg (by omega)).trans (if_neg (by omega))

/-- A row of a symbol without a meaning raises once the symbol is recorded. -/
theorem exec_of_invalidRow {i : Instr} (h : invalidRow i = true) :
    ∃ r, exec i s = .next (raise .invalidBackReference { s with reg := r }) := by
  cases i with
  | llInvalid | distInvalid => exact ⟨_, rfl⟩
  | fixedLl280To287 n x d =>
    have hn : 6 ≤ n.toNat := of_decide_eq_true h
    exact ⟨_, symbolOp_of_invalid (by omega)⟩
  | _ => cases h

/-- Settles O21: the symbol recorded before the fault is in a register, which R412 leaves unspecified. -/
theorem invalidSymbolFaults : Obligations.InvalidSymbolFaults := by
  intro i s hrow herr
  obtain ⟨r, hexec⟩ := exec_of_invalidRow hrow
  exact ⟨_, hexec, raise_raised_of_reg .invalidBackReference r herr⟩

end Sys2Proof.Machine
end

section
/-! Proofs about the host calls: what a new session begins with, what answers a read call, what `CLOSE` leaves, and
what neither a call nor a fault changes. -/

namespace Sys2Proof.Machine

variable {s t : State}

/-! ### `CONSTRUCT` (R21, R341) -/

/-- The configuration record of the host's arguments, the defaults of the mode filled in (R10, R21). -/
def configOf (raw : RawCfg) (dec : DecoderKind) (bk : BufferKind) (pol : Policy) : Cfg :=
  { mode := modeOf raw.mode, decoder := dec
    mapback := if raw.mapback = 1 then .slotArray else .hash
    buffer := bk, policy := pol
    initCap := raw.initCap.getD 4096
    wsize := raw.wsize.getD (maxWsize (modeOf raw.mode))
    blockSize := raw.blockSize.getD 4096 }

/-- The check passes exactly the arguments whose enumeration values are used and whose record is legal. -/
theorem validate_eq_some_iff {raw : RawCfg} {cfg : Cfg} :
    validate raw = some cfg ↔ ∃ dec bk pol, decoderOf raw.decoder = some dec ∧ bufferOf raw.buffer = some bk ∧
      policyOf raw.policy raw.policyArg = some pol ∧ Cfg.legal (configOf raw dec bk pol) = true ∧
      configOf raw dec bk pol = cfg := by
  unfold validate
  split
  · next dec bk pol hdec hbk hpol =>
    rw [Option.ite_none_right_eq_some]
    constructor
    · rintro ⟨hlegal, hcfg⟩
      exact ⟨dec, bk, pol, hdec, hbk, hpol, hlegal, Option.some.inj hcfg⟩
    · rintro ⟨dec', bk', pol', hdec', hbk', hpol', hlegal, rfl⟩
      cases hdec.symm.trans hdec'
      cases hbk.symm.trans hbk'
      cases hpol.symm.trans hpol'
      exact ⟨hlegal, rfl⟩
  · next hunused =>
    refine ⟨nofun, ?_⟩
    rintro ⟨dec, bk, pol, hdec, hbk, hpol, -⟩
    exact absurd hpol (hunused dec bk pol hdec hbk)

theorem legal_iff {c : Cfg} :
    Cfg.legal c = true ↔ (1 ≤ c.initCap ∧ 1 ≤ c.blockSize ∧ 1 ≤ c.wsize ∧ c.wsize ≤ maxWsize c.mode) ∧
      ∀ step, c.policy = .arithDoubling step → 1 ≤ step := by
  rw [Cfg.legal, Bool.and_eq_true, decide_eq_true_eq]
  cases c.policy <;> simp

/-- A `STEP` of 0 is refused with the enumeration values (R341). -/
theorem policyOf_step_pos {v : BitVec 4} {arg step : Nat} (h : policyOf v arg = some (.arithDoubling step)) :
    1 ≤ step := by
  unfold policyOf at h
  split at h
  · obtain ⟨hne, heq⟩ := Option.ite_none_left_eq_some.mp h
    cases heq
    exact Nat.one_le_iff_ne_zero.mpr hne
  all_goals cases h

/-- An argument with a default is in its range where the argument given is. -/
theorem getD_of_forall {P : Nat → Prop} {arg : Option Nat} {default : Nat} (hgiven : ∀ n, arg = some n → P n)
    (hdefault : P default) : P (arg.getD default) := by
  cases arg with
  | none => exact hdefault
  | some n => exact hgiven n rfl

theorem maxWsize_pos (mode : Mode) : 1 ≤ maxWsize mode := by
  cases mode <;> decide

theorem execConstruct_of_valid {raw : RawCfg} {cfg : Cfg} (source : List Byte) (s : State)
    (h : validate raw = some cfg) :
    execConstruct raw source s = .next (respond .constructed (newInstance cfg source s)) := by
  simp only [execConstruct, h]

theorem execConstruct_of_invalid {raw : RawCfg} (source : List Byte) (s : State) (h : validate raw = none) :
    execConstruct raw source s = .next (respond .refusedConfig s) := by
  simp only [execConstruct, h]

/-- Settles O23: the arguments pass the check exactly if each is in its range, and the new session is the reset state
with them. -/
theorem constructChecks : Obligations.ConstructChecks := by
  intro raw source s
  refine ⟨fun dec bk pol hdec hbk hpol hcap hblock hwsize => ?_, fun hbad => ?_⟩
  · have hlegal : Cfg.legal (configOf raw dec bk pol) = true := by
      obtain ⟨hwlow, hwhigh⟩ := getD_of_forall (P := fun n => 1 ≤ n ∧ n ≤ maxWsize (modeOf raw.mode)) hwsize
        ⟨maxWsize_pos _, le_rfl⟩
      refine legal_iff.mpr ⟨⟨getD_of_forall hcap (by decide), getD_of_forall hblock (by decide), hwlow, hwhigh⟩,
        fun step hstep => ?_⟩
      exact policyOf_step_pos (hpol.trans (congrArg some hstep))
    have hvalid := validate_eq_some_iff.mpr ⟨dec, bk, pol, hdec, hbk, hpol, hlegal, rfl⟩
    refine ⟨_, execConstruct_of_valid source s hvalid, rfl, rfl, rfl, rfl, rfl, rfl, rfl, rfl, rfl, ?_⟩
    rintro seed rfl
    rfl
  · refine execConstruct_of_invalid source s (Option.eq_none_iff_forall_ne_some.mpr fun cfg hcfg => ?_)
    obtain ⟨dec, bk, pol, hdec, hbk, hpol, hlegal, -⟩ := validate_eq_some_iff.mp hcfg
    obtain ⟨⟨hcap, hblock, hwlow, hwhigh⟩, -⟩ := legal_iff.mp hlegal
    simp only [configOf] at hcap hblock hwlow hwhigh
    rcases hbad with h | h | h | h | h | ⟨n, h, hn⟩
    · exact nomatch h.symm.trans hdec
    · exact nomatch h.symm.trans hbk
    · exact nomatch h.symm.trans hpol
    · rw [h] at hcap
      exact absurd hcap (by decide)
    · rw [h] at hblock
      exact absurd hblock (by decide)
    · rw [h, Option.getD_some] at hwlow hwhigh
      omega

/-! ### The beginning of a read call (R342, R343, R344) -/

/-- The state with a read call in progress: what beginning a call can change. -/
def State.withCall (s : State) (call : Option HostCall) (want free : Nat) : State :=
  { s with host := { s.host with call := call, want := want }, free := free }

/-- The state in which a `READBUF(n)` waits or ends: the call is in progress and its free value drawn. -/
def beginReadbuf (n : Nat) (s : State) : State :=
  { beginCall (.readbuf n) (readWant s n) s with free := s.free + 1 }

theorem beginCall_eq_withCall (c : HostCall) (want : Nat) (s : State) :
    ∃ call, beginCall c want s = s.withCall call (beginCall c want s).host.want s.free := by
  unfold beginCall
  split <;> exact ⟨_, rfl⟩

theorem beginReadbuf_eq_withCall (n : Nat) (s : State) :
    ∃ call, beginReadbuf n s = s.withCall call (beginReadbuf n s).host.want (s.free + 1) := by
  obtain ⟨call, hbegun⟩ := beginCall_eq_withCall (.readbuf n) (readWant s n) s
  exact ⟨call, congrArg (fun m : State => { m with free := s.free + 1 }) hbegun⟩

/-- `Advance` has nothing to do where it is over already, or where its call begins with enough bytes at hand or with
no operation to execute. -/
theorem beginCall_over {c : HostCall} {want : Nat} (hold : s.host.call ≠ none → s.needsMore s.host.want = false)
    (hnew : s.host.call = none → want ≤ s.atHand ∨ running s.phase = false) :
    (beginCall c want s).needsMore (beginCall c want s).host.want = false := by
  cases hcall : s.host.call with
  | some d =>
    rw [beginCall_some c d want s hcall]
    exact hold (by simp [hcall])
  | none =>
    rw [beginCall_none c want s hcall]
    show (decide (s.atHand < want) && running s.phase) = false
    rcases hnew hcall with henough | hstopped
    · simp [Nat.not_lt.mpr henough]
    · simp [hstopped]

/-- A call in progress that `i` can complete is over. -/
theorem callOver.over {i : Instr} (h : callOver i s) (hcall : s.host.call ≠ none) :
    s.needsMore s.host.want = false := by
  obtain hnone | ⟨c, -, -, hover⟩ := h
  · exact absurd hnone hcall
  · exact hover

/-- A `READBUF(n)` with `n` at least 1 wants at least one byte, whether it begins or is in progress (R343). -/
theorem beginReadbuf_want_pos {n : Nat} (hn : 1 ≤ n) (hold : s.host.call ≠ none → 1 ≤ s.host.want) :
    1 ≤ (beginReadbuf n s).host.want := by
  show 1 ≤ (beginCall (.readbuf n) (readWant s n) s).host.want
  cases hcall : s.host.call with
  | some d =>
    rw [beginCall_some _ d _ s hcall]
    exact hold (by simp [hcall])
  | none =>
    rw [beginCall_none _ _ s hcall]
    exact (readWant_bounds s n hn).1

/-- A `READ` whose `Advance` is over ends at once. -/
theorem execRead_of_over (hopen : s.phase ≠ .closed)
    (h : (beginCall .read 1 s).needsMore (beginCall .read 1 s).host.want = false) :
    ∃ call want, execRead s = .next (finishRead (s.withCall call want s.free)) := by
  obtain ⟨call, hbegun⟩ := beginCall_eq_withCall .read 1 s
  refine ⟨call, (beginCall .read 1 s).host.want, ?_⟩
  rw [← hbegun]
  simp [execRead, hopen, h]

theorem execRead_of_more (hopen : s.phase ≠ .closed)
    (h : (beginCall .read 1 s).needsMore (beginCall .read 1 s).host.want = true) :
    execRead s = .next (beginCall .read 1 s) := by
  simp [execRead, hopen, h]

/-- A `READBUF(n)` whose `Advance` is over ends at once. -/
theorem execReadbuf_of_over {n : Nat} (hopen : s.phase ≠ .closed) (hn : 1 ≤ n)
    (h : (beginReadbuf n s).needsMore (beginReadbuf n s).host.want = false) :
    ∃ call, execReadbuf n s =
      .next (finishReadbuf n (s.withCall call (beginReadbuf n s).host.want (s.free + 1))) := by
  obtain ⟨call, hbegun⟩ := beginReadbuf_eq_withCall n s
  refine ⟨call, ?_⟩
  rw [← hbegun, execReadbuf, if_neg hopen, if_neg (Nat.one_le_iff_ne_zero.mp hn)]
  exact if_neg (Bool.not_eq_true _ ▸ h)

theorem execReadbuf_of_more {n : Nat} (hopen : s.phase ≠ .closed) (hn : 1 ≤ n)
    (h : (beginReadbuf n s).needsMore (beginReadbuf n s).host.want = true) :
    execReadbuf n s = .next (beginReadbuf n s) := by
  rw [execReadbuf, if_neg hopen, if_neg (Nat.one_le_iff_ne_zero.mp hn)]
  exact if_pos h

/-! ### Bytes at hand (R185, R342, R343) -/

/-- A byte that is next for the host is at hand (R47). -/
theorem atHand_pos_of_next {b : Byte} (h : s.buf.out[s.buf.drained]? = some b) : 1 ≤ s.atHand := by
  obtain ⟨hlt, -⟩ := List.getElem?_eq_some_iff.mp h
  exact Nat.sub_pos_of_lt hlt

/-- A fault is reported first only in `FAILED` under `immediate` (R347). -/
theorem errorFirst_iff : s.errorFirst = true ↔ s.phase = .failed ∧ s.params.errDelivery = .immediate := by
  simp [State.errorFirst]

theorem errorFirst_eq_false (h : ¬(s.phase = .failed ∧ s.params.errDelivery = .immediate)) : s.errorFirst = false :=
  Bool.not_eq_true _ ▸ mt errorFirst_iff.mp h

/-- The end of a `READ` that delivers the next byte (R342). -/
theorem finishRead_delivers {b : Byte} (hfirst : s.errorFirst = false)
    (hb : s.buf.out[s.buf.drained]? = some b) :
    finishRead s = { s with
      buf := { s.buf with drained := s.buf.drained + 1 }, host := answered (.byte b) s } := by
  have hnext : Buf.undelivered 1 s.buf = [b] := by
    rw [Buf.undelivered, List.take_one, List.head?_drop, hb]
    rfl
  simp [finishRead, hfirst, hnext, deliverByte, respond, drain, Buf.drain, answered]

/-- Settles O24: `Advance(1)` is over with a byte at hand, and beginning the call has written the host port only. -/
theorem readDelivers : Obligations.ReadDelivers := by
  intro s b hopen hcall hb hfirst
  obtain ⟨call, want, hexec⟩ := execRead_of_over hopen <|
    beginCall_over hcall.over fun _ => .inl (atHand_pos_of_next hb)
  exact hexec.trans (congrArg _ (finishRead_delivers (errorFirst_eq_false hfirst) hb))

/-- A `READBUF(n)` whose `Advance` is over, with a byte at hand and no fault to report first, answers a count. -/
theorem execReadbuf_delivers {n : Nat} (hopen : s.phase ≠ .closed) (hn : 1 ≤ n) (ha : 1 ≤ s.atHand)
    (hfirst : s.errorFirst = false) (hwant : s.host.call ≠ none → 1 ≤ s.host.want)
    (hover : (beginReadbuf n s).needsMore (beginReadbuf n s).host.want = false) :
    ∃ t k, execReadbuf n s = .next t ∧ 1 ≤ k ∧ k ≤ min n s.atHand ∧
      (s.params.readbufCount = .fill → k = min n s.atHand) ∧
      t = { s with
        buf := { s.buf with drained := s.buf.drained + k }, free := t.free
        host := answered (.count ((s.buf.out.drop s.buf.drained).take k)) s } := by
  obtain ⟨call, hexec⟩ := execReadbuf_of_over hopen hn hover
  obtain ⟨k, hlow, hhigh, hfill, hend⟩ := finishReadbuf_delivers n
    (s.withCall call (beginReadbuf n s).host.want (s.free + 1)) hfirst hn ha (beginReadbuf_want_pos hn hwant)
  exact ⟨_, k, hexec.trans (congrArg _ hend), hlow, hhigh, hfill, rfl⟩

/-- Settles O25: the call asks for at most `n` bytes, which are at hand, or no operation is left to execute. -/
theorem readbufDelivers : Obligations.ReadbufDelivers := by
  intro s n hopen hn ha hcall hfirst
  obtain ⟨hnone, hstops⟩ | ⟨hsome, hwant, hover⟩ := hcall
  · exact execReadbuf_delivers hopen hn ha (errorFirst_eq_false hfirst) (absurd hnone)
      (beginCall_over (absurd hnone) fun _ => hstops.imp_left (readWant_bounds s n hn).2.1.trans)
  · exact execReadbuf_delivers hopen hn ha (errorFirst_eq_false hfirst) (fun _ => hwant)
      (beginCall_over (fun _ => hover) fun hnone => nomatch hnone.symm.trans hsome)

/-! ### Too few bytes at hand (R344) -/

/-- While the engine runs, a call goes on exactly where it wants more bytes than are at hand. -/
theorem needsMore_of_running {want : Nat} (hrun : running s.phase = true) :
    s.needsMore want = true ↔ s.atHand < want := by
  simp [State.needsMore, hrun]

/-- Settles O26: under `fill` the call wants all `n` bytes; under `any` it may want no more than are at hand. -/
theorem readAdvances : Obligations.ReadAdvances := by
  intro s
  refine ⟨fun hrun hnone => ?_, fun hopen => (if_neg hopen).trans (if_pos rfl)⟩
  obtain ⟨hfailed, hopen⟩ := running_open hrun
  refine ⟨fun hempty => ?_, fun n hfew => ?_⟩
  · have hbegun := beginCall_none .read 1 s hnone
    refine (execRead_of_more hopen ?_).trans (congrArg _ hbegun)
    rw [hbegun]
    exact (needsMore_of_running hrun).mpr (hempty ▸ Nat.one_pos)
  · have hn : 1 ≤ n := Nat.one_le_of_lt hfew
    obtain ⟨hlow, hhigh, hfill⟩ := readWant_bounds s n hn
    by_cases hmore : s.atHand < readWant s n
    · have hbegun : beginReadbuf n s = s.withCall (some (.readbuf n)) (readWant s n) (s.free + 1) := by
        rw [beginReadbuf, beginCall_none _ _ s hnone]
        rfl
      refine ⟨_, execReadbuf_of_more hopen hn ?_, .inl ⟨readWant s n, hmore, hhigh, hfill, ?_⟩⟩
      · rw [hbegun]
        exact (needsMore_of_running hrun).mpr hmore
      · rw [hbegun]
        rfl
    · have henough : readWant s n ≤ s.atHand := Nat.le_of_not_lt hmore
      obtain ⟨t, k, hexec, hk, hk', -, ht⟩ := execReadbuf_delivers hopen hn (hlow.trans henough)
        (errorFirst_eq_false fun h => hfailed h.1) (absurd hnone)
        (beginCall_over (absurd hnone) fun _ => .inl henough)
      refine ⟨t, hexec, .inr ⟨?_, k, hk, hk'.trans (min_le_right _ _), ht⟩⟩
      cases hcount : s.params.readbufCount with
      | any => rfl
      | fill => exact absurd (hfill hcount ▸ henough) (Nat.not_le.mpr hfew)

/-! ### Nothing at hand, or a fault (R346, R347, R348) -/

theorem undelivered_eq_nil (k : Nat) (h : s.atHand = 0) : Buf.undelivered k s.buf = [] := by
  have hall : s.buf.out.length ≤ s.buf.drained := Nat.le_of_sub_eq_zero h
  rw [Buf.undelivered, List.drop_eq_nil_of_le hall, List.take_nil]

/-- The two ends of a read call (R342, R343). -/
def IsFinish (finish : State → State) : Prop :=
  finish = finishRead ∨ ∃ n, finish = finishReadbuf n

theorem IsFinish.of_errorFirst {finish : State → State} (h : IsFinish finish) (hfirst : s.errorFirst = true) :
    finish s = reportError s := by
  obtain rfl | ⟨n, rfl⟩ := h
  · exact if_pos hfirst
  · exact if_pos hfirst

theorem IsFinish.of_empty {finish : State → State} (h : IsFinish finish) (hfirst : s.errorFirst = false)
    (hempty : s.atHand = 0) : finish s = finishEmpty s := by
  obtain rfl | ⟨n, rfl⟩ := h
  · simp [finishRead, hfirst, undelivered_eq_nil 1 hempty]
  · simp [finishReadbuf, hfirst, hempty]

/-- At `DONE` with nothing at hand a read call ends with end-of-stream (R346). -/
theorem IsFinish.of_done {finish : State → State} (h : IsFinish finish) (hdone : s.phase = .done)
    (hempty : s.atHand = 0) : finish s = reportEos s := by
  have hfirst : s.errorFirst = false := errorFirst_eq_false fun hf => nomatch hdone.symm.trans hf.1
  exact (h.of_empty hfirst hempty).trans (finishEmpty_done s hdone)

/-- In `FAILED` a read call ends with the error, first or because nothing is at hand (R347). -/
theorem IsFinish.of_failed {finish : State → State} (h : IsFinish finish) (hfailed : s.phase = .failed)
    (hreport : s.atHand = 0 ∨ s.params.errDelivery = .immediate) : finish s = reportError s := by
  cases hfirst : s.errorFirst with
  | true => exact h.of_errorFirst hfirst
  | false =>
    have hempty : s.atHand = 0 := hreport.resolve_right fun himm =>
      absurd (errorFirst_iff.mpr ⟨hfailed, himm⟩) (by simp [hfirst])
    exact (h.of_empty hfirst hempty).trans (finishEmpty_failed s hfailed)

/-- A read call that the engine cannot advance ends at once. -/
theorem readCall_ends {i : Instr} (hi : readCall i = true) (hopen : s.phase ≠ .closed)
    (hstopped : running s.phase = false) (hcall : callOver i s) :
    ∃ finish call want free, IsFinish finish ∧ exec i s = .next (finish (s.withCall call want free)) := by
  have hover {c : HostCall} {want : Nat} := beginCall_over (c := c) (want := want) hcall.over fun _ => .inr hstopped
  cases i with
  | read =>
    obtain ⟨call, want, hexec⟩ := execRead_of_over hopen hover
    exact ⟨_, call, want, s.free, .inl rfl, hexec⟩
  | readbuf n =>
    obtain ⟨call, hexec⟩ := execReadbuf_of_over hopen (of_decide_eq_true hi) hover
    exact ⟨_, call, _, _, .inr ⟨n, rfl⟩, hexec⟩
  | _ => cases hi

/-- Settles O27: at `DONE` the call ends with nothing at hand. -/
theorem endOfStreamReported : Obligations.EndOfStreamReported := by
  intro i s hi hdone hcall hempty
  obtain ⟨finish, call, want, free, hfinish, hexec⟩ :=
    readCall_ends hi (by simp [hdone]) (by simp [hdone, running]) hcall
  exact ⟨_, hexec.trans (congrArg _ (hfinish.of_done hdone hempty)), rfl⟩

theorem reportError_of_some {e : ErrKind} (h : s.err = some e) :
    reportError s = { s with errPending := false, host := answered (.error e) s } := by
  simp [reportError, h, respond, answered]

/-- Settles O28: in `FAILED` the call ends with the error, first or because nothing is at hand. -/
theorem faultReported : Obligations.FaultReported := by
  intro i e s hi hfailed herr hcall hreport
  obtain ⟨finish, call, want, free, hfinish, hexec⟩ :=
    readCall_ends hi (by simp [hfailed]) (by simp [hfailed, running]) hcall
  have hend := hfinish.of_failed (s := s.withCall call want free) hfailed hreport
  exact ⟨_, hexec.trans (congrArg _ (hend.trans (reportError_of_some herr))), rfl⟩

/-! ### `CLOSE` and after it (R350, R351) -/

theorem execClose_of_closed (h : s.phase = .closed) : execClose s = .next (respond .closed s) :=
  if_pos h

theorem execClose_of_open (h : s.phase ≠ .closed) : execClose s = .next (respond .closed (release s)) :=
  if_neg h

/-- Settles O29: `CLOSE` releases an open session and answers, and a closed one it only answers. -/
theorem closeReleases : Obligations.CloseReleases := fun _ =>
  ⟨execClose_of_closed, fun hopen =>
    ⟨_, execClose_of_open hopen, rfl, rfl, rfl, rfl, rfl, rfl, rfl, rfl, rfl, rfl, rfl, rfl, rfl⟩⟩

theorem execRead_of_closed (h : s.phase = .closed) : execRead s = .refused .readAfterClose :=
  if_pos h

theorem execReadbuf_of_closed (n : Nat) (h : s.phase = .closed) : execReadbuf n s = .refused .readAfterClose :=
  if_pos h

/-- Settles O30: the phase is looked at before anything else. -/
theorem readAfterCloseRefused : Obligations.ReadAfterCloseRefused := fun _ hclosed =>
  ⟨execRead_of_closed hclosed, fun n => execReadbuf_of_closed n hclosed⟩

/-! ### A step without a stream operation (R344, R429) -/

theorem step_of_over {c : HostCall} (hcall : s.host.call = some c) (hover : s.needsMore s.host.want = false) :
    step s = exec (callInstr c) s := by
  simp [step, hcall, hover]

theorem step_of_nextCall {c : HostCall} {rest : List HostCall} (hnone : s.host.call = none)
    (hcalls : s.host.calls = c :: rest) : step s = exec (callInstr c) (takeCall rest s) := by
  simp [step, hnone, hcalls]

theorem step_of_idle (hnone : s.host.call = none) (hcalls : s.host.calls = []) : step s = .next s := by
  simp [step, hnone, hcalls]

/-- Settles O32: the step looks at the call in progress, then at the list. -/
theorem stepServesHost : Obligations.StepServesHost := fun _ =>
  ⟨fun hcall hover => step_of_over hcall hover, fun _ hcall hover => step_of_over hcall hover,
    fun _ _ hnone hcalls => step_of_nextCall hnone hcalls, step_of_idle⟩

/-! ### What calls and faults leave (R346, R348, R410, R412) -/

/-- A host call that completes leaves the engine as it is, closes the session, or begins a new one. -/
theorem call_cases (c : HostCall) (h : exec (callInstr c) s = .next t) :
    (t.phase = s.phase ∧ t.bits = s.bits ∧ t.reg = s.reg ∧ t.buf.out = s.buf.out ∧ t.err = s.err) ∨
      t.phase = .closed ∨
      (t.phase = .header ∧ t.buf.out = [] ∧ ∃ raw source, c = .construct raw source) := by
  cases c with
  | construct raw source =>
    change execConstruct raw source s = _ at h
    unfold execConstruct at h
    split at h <;> cases h
    · exact .inl ⟨rfl, rfl, rfl, rfl, rfl⟩
    · exact .inr (.inr ⟨rfl, rfl, raw, source, rfl⟩)
  | read =>
    have hframe := (execRead_cases h).2.frame
    exact .inl (by rw [hframe]; simp)
  | readbuf n =>
    rcases (execReadbuf_cases h).2 with rfl | ⟨-, ho⟩
    · exact .inl ⟨rfl, rfl, rfl, rfl, rfl⟩
    · have hframe := ho.frame
      exact .inl (by rw [hframe]; simp)
  | close =>
    change execClose s = _ at h
    unfold execClose at h
    split at h <;> cases h
    · exact .inl ⟨rfl, rfl, rfl, rfl, rfl⟩
    · exact .inr (.inl rfl)

/-- No `CONSTRUCT` is held in progress. -/
theorem State.Inv.not_constructing (hs : s.Inv) (raw : RawCfg) (source : List Byte) :
    s.host.call ≠ some (.construct raw source) := by
  intro hcall
  have := hs.call
  simp [CallOk, hcall] at this

/-- Settles O56: no stream operation runs, and of the host's calls only `CLOSE` and `CONSTRUCT` touch the engine. -/
theorem doneAndFailedAreFinal : Obligations.DoneAndFailedAreFinal := by
  intro s t hs hfinal h
  rcases step_cases s with ⟨c, -, hmore, -⟩ | ⟨c, hcall, -, hstep⟩ | ⟨c, rest, -, hcalls, hstep⟩ | ⟨-, -, hstep⟩
  · have hrun := running_of_needsMore hmore
    obtain hp | hp := hfinal <;> rw [hp] at hrun <;> cases hrun
  · rcases call_cases c (hstep.symm.trans h) with hkept | hclosed | ⟨-, -, raw, source, rfl⟩
    · exact .inl hkept
    · exact .inr (.inl hclosed)
    · exact absurd hcall (hs.not_constructing raw source)
  · rcases call_cases (s := takeCall rest s) c (hstep.symm.trans h) with hkept | hclosed | ⟨hp, hout, raw, source, rfl⟩
    · exact .inl hkept
    · exact .inr (.inl hclosed)
    · exact .inr (.inr ⟨hp, hout, raw, source, by rw [hcalls]; rfl⟩)
  · cases hstep.symm.trans h
    exact .inl ⟨rfl, rfl, rfl, rfl, rfl⟩

/-- A host call is the instruction of one. -/
theorem exists_callInstr {i : Instr} (h : callRow i = true) : ∃ c, callInstr c = i := by
  cases i with
  | construct raw source => exact ⟨.construct raw source, rfl⟩
  | read => exact ⟨.read, rfl⟩
  | readbuf n => exact ⟨.readbuf n, rfl⟩
  | close => exact ⟨.close, rfl⟩
  | _ => cases h

/-- From a running phase only a fault leads to `FAILED`. -/
theorem faulted_of_failed {i : Instr} (hrun : running s.phase = true) (h : exec i s = .next t)
    (hfailed : t.phase = .failed) : Faulted s t := by
  have hnot := (running_open hrun).1
  cases hi : callRow i with
  | false =>
    rcases exec_effect hi h with ⟨-, -, hp | hp | hp⟩ | hfault
    · exact absurd (hp.symm.trans hfailed) hnot
    · exact nomatch hp.symm.trans hfailed
    · exact absurd hfailed (running_open hp).1
    · exact hfault
  | true =>
    obtain ⟨c, rfl⟩ := exists_callInstr hi
    rcases call_cases c h with ⟨hp, -⟩ | hp | ⟨hp, -⟩
    · exact absurd (hp.symm.trans hfailed) hnot
    · exact nomatch hp.symm.trans hfailed
    · exact nomatch hp.symm.trans hfailed

/-- Settles O57: the operation raised, and before that it has written registers only. -/
theorem faultsArePrecise : Obligations.FaultsArePrecise := by
  intro i s t hrun herr h hfailed
  obtain ⟨e, r, hcore, rfl⟩ := faulted_of_failed hrun h hfailed
  obtain ⟨-, -, hcode, -⟩ := raise_raised_of_reg e r herr
  refine ⟨e, raise_raised_of_reg e r herr, rfl, ?_⟩
  rw [hcode]
  cases e <;> revert hcore <;> decide

end Sys2Proof.Machine
end

section
/-! Proofs about reading without a stop: from a parser between operations, with the tables that the invariant says are
there, every element is read or raises, and takes at least one bit unless its format has none. -/

namespace Sys2Proof

open Sys2Proof.Machine

/-! ### Reads that do not stop -/

/-- Further on in a source fewer bits are to come. -/
theorem Parser.Past.length_upcoming_le {p q : Parser} (h : p.Past q) (hp : p.Coherent) :
    q.upcoming.length ≤ p.upcoming.length := by
  have hpsum := hp.bp_add_length_upcoming
  have hqsum := h.coherent.bp_add_length_upcoming
  have hle := h.bp_le
  rw [h.input] at hqsum
  omega

/-- Read from `p`, a value that has `P`, with at least `n` bits consumed and a parser between operations left; or an
error kind; but no stop of the model. -/
def Fetched.Reads {α : Type} (n : Nat) (P : α → Prop) (p : Parser) : Fetched α → Prop
  | .ok a q => P a ∧ q.Coherent ∧ q.Lazy ∧ q.upcoming.length + n ≤ p.upcoming.length
  | .raised _ _ => True
  | .rejected _ => False

section

variable {α β : Type} {P P' : α → Prop} {Q : β → Prop} {m n : Nat} {p : Parser} {x y : Fetched α}

theorem Fetched.Reads.ok {a : α} (ha : P a) (hc : p.Coherent) (hl : p.Lazy) : (Fetched.ok a p).Reads 0 P p :=
  ⟨ha, hc, hl, le_rfl⟩

/-- Reading on after a read: what the first read consumes is consumed. -/
theorem Fetched.Reads.bind {f : α → Parser → Fetched β} (hx : x.Reads m P p)
    (hf : ∀ a q, P a → q.Coherent → q.Lazy → (f a q).Reads 0 Q q) (hn : n ≤ m := by omega) :
    (x.bind f).Reads n Q p := by
  cases x with
  | ok a q =>
    obtain ⟨ha, hqc, hql, hq⟩ := hx
    have hrest := hf a q ha hqc hql
    show (f a q).Reads n Q p
    revert hrest
    cases f a q with
    | ok b r => exact fun ⟨hb, hrc, hrl, hr⟩ => ⟨hb, hrc, hrl, by omega⟩
    | raised e r => exact id
    | rejected r => exact id
  | raised e q => trivial
  | rejected r => exact hx

theorem Fetched.Reads.mono (hx : x.Reads m P p) (hP : ∀ a, P a → P' a) (hn : n ≤ m) : x.Reads n P' p := by
  cases x with
  | ok a q =>
    obtain ⟨ha, hqc, hql, hq⟩ := hx
    exact ⟨hP a ha, hqc, hql, by omega⟩
  | raised e q => trivial
  | rejected r => exact hx

/-- Reading from a parser further on is reading from the parser before. -/
theorem Fetched.Reads.of_past {q : Parser} (hpq : q.upcoming.length ≤ p.upcoming.length) (hx : x.Reads n P q) :
    x.Reads n P p := by
  cases x with
  | ok a r =>
    obtain ⟨ha, hrc, hrl, hr⟩ := hx
    exact ⟨ha, hrc, hrl, hr.trans hpq⟩
  | raised e r => trivial
  | rejected r => exact hx

/-- A read that agrees with one that does not stop does not stop (R153). -/
theorem Fetched.Agrees.reads (h : x.Agrees y) (hy : y.Reads n P p) : x.Reads n P p := by
  cases x with
  | ok a q =>
    cases y with
    | ok b r =>
      obtain ⟨rfl, rfl⟩ := h
      exact hy
    | raised | rejected => exact h.elim
  | raised e q => trivial
  | rejected r =>
    cases y with
    | ok | raised => exact h.elim
    | rejected => exact hy

end

variable {p : Parser}

/-- `GetBits(n)` consumes its field, whatever `n` is (R226). -/
theorem Parser.getBits_consumes (n : Nat) (hc : p.Coherent) (hl : p.Lazy) :
    (p.getBits n).Reads n (fun _ => True) p := by
  by_cases hn : n ≤ p.upcoming.length
  · obtain ⟨q, hget, hup, -, hpast⟩ := Parser.getBits_reads hc hl hn
    rw [hget]
    refine ⟨trivial, hpast.coherent, hpast.lazy, ?_⟩
    rw [hup, List.length_drop]
    omega
  · obtain ⟨q, hget, -⟩ := p.getBits_eos n hc.eosHonest (Nat.lt_of_not_le hn)
    rw [hget]
    trivial

theorem Parser.getBit_consumes (hc : p.Coherent) (hl : p.Lazy) : p.getBit.Reads 1 (fun _ => True) p :=
  (Parser.getBits_consumes 1 hc hl).bind fun _ _ _ hqc hql => .ok trivial hqc hql

/-! ### Decoding a symbol (R150) -/

/-- Inside the codewords the abstract `Decode` ends at a codeword or raises, before its turns are used up. -/
theorem contractLoop_reads {ts : List Triple} (hfree : PrefixFree ts) (fuel : Nat) :
    ∀ (v : Bits) (p : Parser), Inner ts v → (∀ t ∈ ts, t.word.length ≤ fuel + v.length) → p.Coherent → p.Lazy →
      (contractLoop (symbolWords ts) fuel v p).Reads 1 (fun s => ∃ t ∈ ts, t.symbol = s) p := by
  induction fuel with
  | zero =>
    intro v p hv hlen _ _
    exact absurd (hv.length_lt hlen) (by omega)
  | succ fuel ih =>
    intro v p hv hlen hc hl
    rw [contractLoop_succ]
    refine (Parser.getBit_consumes hc hl).bind fun b q _ hqc hql => ?_
    rcases word_or_inner_or_outside ts (v ++ [b]) with ⟨t, ht, heq⟩ | hin | hout
    · rw [← heq, contractNext_word fuel q hfree ht]
      exact .ok ⟨t, ht, rfl⟩ hqc hql
    · have hlen' : ∀ t ∈ ts, t.word.length ≤ fuel + (v ++ [b]).length := by
        simpa [Nat.add_assoc, Nat.add_comm 1] using hlen
      rw [contractNext_inner fuel q hfree hin]
      exact (ih _ q hin hlen' hqc hql).mono (fun _ => id) (Nat.zero_le 1)
    · rw [contractNext_outside fuel q hout]
      trivial

/-- The contract answers a symbol of the alphabet, after at least one bit, or raises. -/
theorem contractDecode_reads {lens : List Nat} {maxl : Nat} (hl : ∀ l ∈ lens, l ≤ maxl)
    (hk : kraftSum lens maxl ≤ 2 ^ maxl) (hpc : p.Coherent) (hpl : p.Lazy) :
    (contractDecode lens p).Reads 1 (· < lens.length) p := by
  by_cases hu : usedCount lens = 0
  · rw [contractDecode, if_pos hu]
    trivial
  · have hfree := codeTriples_prefixFree hl hk
    obtain ⟨t, ht⟩ := exists_mem_codeTriples hu
    rw [contractDecode_eq hu]
    refine (contractLoop_reads hfree _ _ _ (hfree.inner_nil ht) (fun u hmem => length_word_le_maxLen hmem)
      hpc hpl).mono ?_ le_rfl
    rintro _ ⟨u, hmem, rfl⟩
    exact (List.getElem?_eq_some_iff.mp (mem_codeTriples hmem).1).1

/-- Every strategy meets the contract (R153). -/
theorem decodeSym_agrees_contractDecode {cfg : Cfg} {params : Params} {which : Which} {lens : List Nat} {maxl : Nat}
    {t : Table} (hlen : lens.length ≤ 288) (hl : ∀ l ∈ lens, l ≤ maxl) (hc : p.Coherent)
    (ht : buildTable cfg params which lens maxl = some t) : (decodeSym t p).Agrees (contractDecode lens p) := by
  cases hd : cfg.decoder with
  | trieStateSymbol => exact mapsMeetContract _ _ _ _ _ _ _ (.inl hd) hlen hl hc ht
  | trieSymbolState => exact mapsMeetContract _ _ _ _ _ _ _ (.inr (.inl hd)) hlen hl hc ht
  | genericMap => exact mapsMeetContract _ _ _ _ _ _ _ (.inr (.inr hd)) hlen hl hc ht
  | tree => exact treeMeetsContract _ _ _ _ _ _ _ hd hlen hl hc ht
  | table => exact tableMeetsContract _ _ _ _ _ _ _ hd hlen hl hc ht

/-- `Decode` of a table that the invariant says is there answers a symbol of its alphabet, after at least one bit, or
raises. -/
theorem decodeWith_reads {s : State} {which : Which} {n maxl : Nat} {t : Option Table} (hn : n ≤ 288)
    (ht : TableOk s which n maxl t) (hc : p.Coherent) (hl : p.Lazy) : (decodeWith t p).Reads 1 (· < n) p := by
  obtain ⟨lens, rfl, hlens, hsome, hbuild⟩ := ht
  obtain ⟨tab, rfl⟩ := Option.isSome_iff_exists.mp hsome
  obtain ⟨hhealthy, -, -⟩ := buildTable_eq_some _ _ _ _ _ _ hbuild
  exact (decodeSym_agrees_contractDecode hn hlens hc hbuild).reads
    (contractDecode_reads hlens (kraftSum_le_of_healthy hhealthy) hc hl)

/-! ### What follows a symbol (R96, R98, R99) -/

theorem exists_clLenInstr {v : Nat} (h : v < 16) : ∃ i, clLenInstr v = some i := by
  interval_cases v <;> exact ⟨_, rfl⟩

theorem clElement_reads (stops : Bool) {v : Nat} (hv : v < 19) (hc : p.Coherent) (hl : p.Lazy) :
    (clElement stops v p).Reads 0 (fun _ => True) p := by
  unfold clElement
  split
  · split
    · exact .ok trivial hc hl
    · exact (Parser.getBits_consumes 2 hc hl).bind fun _ _ _ hqc hql => .ok trivial hqc hql
  · exact (Parser.getBits_consumes 3 hc hl).bind fun _ _ _ hqc hql => .ok trivial hqc hql
  · exact (Parser.getBits_consumes 7 hc hl).bind fun _ _ _ hqc hql => .ok trivial hqc hql
  · next h16 h17 h18 =>
    have hne : v ≠ 16 ∧ v ≠ 17 ∧ v ≠ 18 := ⟨h16, h17, h18⟩
    obtain ⟨i, hi⟩ := exists_clLenInstr (v := v) (by omega)
    rw [hi]
    exact .ok trivial hc hl

theorem distElement_reads (mode : Mode) {c : Nat} (h : c < 32) (hc : p.Coherent) (hl : p.Lazy) :
    (distElement mode c p).Reads 0 (fun _ => True) p := by
  rw [distElement, if_neg (Nat.not_le.mpr h)]
  exact (Parser.getBits_consumes _ hc hl).bind (fun _ _ _ hqc hql => .ok trivial hqc hql) (Nat.zero_le _)

/-- Every length symbol has a row in both modes (R304 to R307). -/
theorem exists_matchInstr (mode : Mode) {v : Nat} (x : Nat) (d : DistField) (hlow : 257 ≤ v) (hhigh : v ≤ 285) :
    ∃ i, matchInstr mode v x d = some i := by
  cases mode <;> interval_cases v <;> exact ⟨_, rfl⟩

theorem dataElement_reads (mode : Mode) {dist : Parser → Fetched DistField} {v : Nat} (hv : v < 288)
    (hdist : ∀ q : Parser, q.Coherent → q.Lazy → (dist q).Reads 0 (fun _ => True) q)
    (hc : p.Coherent) (hl : p.Lazy) : (dataElement mode dist v p).Reads 0 (fun _ => True) p := by
  unfold dataElement
  split
  · exact .ok trivial hc hl
  · split
    · exact .ok trivial hc hl
    · split
      · refine (Parser.getBits_consumes _ hc hl).bind fun x q _ hqc hql =>
          (hdist q hqc hql).bind fun d r _ hrc hrl => ?_
        obtain ⟨i, hi⟩ := exists_matchInstr mode (v := v) x d (by omega) (by omega)
        rw [hi]
        exact .ok trivial hrc hrl
      · rw [if_pos (by omega)]
        exact .ok trivial hc hl

/-! ### The element selected (R120) -/

theorem readData_reads {s : State} (ht : DataTablesOk s) (hc : p.Coherent) (hl : p.Lazy) :
    (readData s.ctx p).Reads 1 (fun _ => True) p := by
  obtain ⟨hll, hd⟩ := ht
  exact (decodeWith_reads (by decide) hll hc hl).bind fun v _ hv hqc hql =>
    dataElement_reads _ hv (fun _ hrc hrl => (decodeWith_reads (by decide) hd hrc hrl).bind fun c _ hlt hsc hsl =>
      distElement_reads _ hlt hsc hsl) hqc hql

theorem readCl_reads {s : State} (ht : TableOk s .cl 19 7 s.reg.cltab) (hc : p.Coherent) (hl : p.Lazy) :
    (readCl s.ctx p).Reads 1 (fun _ => True) p :=
  (decodeWith_reads (by decide) ht hc hl).bind fun _ _ hv hqc hql => clElement_reads _ hv hqc hql

theorem readHeader_reads (hc : p.Coherent) (hl : p.Lazy) : (readHeader p).Reads 1 (fun _ => True) p :=
  (Parser.getBits_consumes 1 hc hl).bind fun _ _ _ hqc hql =>
    (Parser.getBits_consumes 2 hqc hql).bind fun type r _ hrc hrl => by
      split <;> exact .ok trivial hrc hrl

/-- The pad before a stored header is dropped from what is buffered (R93, R227). -/
theorem readStoredHdr_reads (hc : p.Coherent) (hl : p.Lazy) : (readStoredHdr p).Reads 1 (fun _ => True) p := by
  have ha := Parser.Past.alignByte hc hl
  refine Fetched.Reads.of_past (ha.length_upcoming_le hc) ?_
  exact (Parser.getBits_consumes 16 ha.coherent ha.lazy).bind fun _ _ _ hqc hql =>
    (Parser.getBits_consumes 16 hqc hql).bind fun _ _ _ hrc hrl => .ok trivial hrc hrl

theorem readStoredByte_reads (hc : p.Coherent) (hl : p.Lazy) : (readStoredByte p).Reads 1 (fun _ => True) p :=
  (Parser.getBits_consumes 8 hc hl).bind fun _ _ _ hqc hql => .ok trivial hqc hql

theorem readCounts_reads (hc : p.Coherent) (hl : p.Lazy) : (readCounts p).Reads 1 (fun _ => True) p :=
  (Parser.getBits_consumes 5 hc hl).bind fun _ _ _ hqc hql =>
    (Parser.getBits_consumes 5 hqc hql).bind fun _ _ _ hrc hrl =>
      (Parser.getBits_consumes 4 hrc hrl).bind fun _ _ _ hsc hsl => .ok trivial hsc hsl

theorem readCllen_reads (hc : p.Coherent) (hl : p.Lazy) : (readCllen p).Reads 1 (fun _ => True) p :=
  (Parser.getBits_consumes 3 hc hl).bind fun _ _ _ hqc hql => .ok trivial hqc hql

/-- The next element is one of the two that have no bits: `DYN.CLBUILD` or `DYN.BUILD` (R275, R284). -/
def Machine.State.buildsNext (s : State) : Bool :=
  s.phase == .dynamic && (s.reg.sub == .dBuild || s.reg.sub == .dCllens && s.reg.clidx == ncl s.reg.hclen)

theorem fetchElem_of_buildsNext {s : State} (h : s.buildsNext = true) :
    fetchElem s = .ok .dynClbuild s.bits ∨ fetchElem s = .ok .dynBuild s.bits := by
  simp only [State.buildsNext, Bool.and_eq_true, Bool.or_eq_true, beq_iff_eq] at h
  obtain ⟨hphase, hsub | ⟨hsub, hidx⟩⟩ := h
  · exact .inr (by simp [fetchElem, decodeElem, State.ctx, hphase, hsub])
  · exact .inl (by simp [fetchElem, decodeElem, State.ctx, hphase, hsub, hidx])

/-- Every other element that a running state selects is read with at least one bit, or raises. -/
theorem fetchElem_reads {s : State} (hrun : running s.phase = true) (hphase : PhaseOk s)
    (hbuilds : s.buildsNext = false) (hc : s.bits.Coherent) (hl : s.bits.Lazy) : (fetchElem s).Reads 1 (fun _ => True) s.bits := by
  have hctx : s.ctx.phase = s.phase ∧ s.ctx.sub = s.reg.sub := ⟨rfl, rfl⟩
  unfold PhaseOk at hphase
  unfold State.buildsNext at hbuilds
  unfold fetchElem decodeElem
  rw [hctx.1, hctx.2]
  revert hrun hphase hbuilds
  generalize s.phase = phase
  generalize s.reg.sub = sub
  intro hrun hphase hbuilds
  cases phase with
  | header => exact readHeader_reads hc hl
  | stored =>
    cases sub with
    | sHdr => exact readStoredHdr_reads hc hl
    | sData =>
      obtain ⟨-, hsrem⟩ := hphase.resolve_left nofun
      have hleft : s.ctx.storedLeft = true := bne_iff_ne.mpr hsrem
      show Fetched.Reads 1 _ _ (if s.ctx.storedLeft then _ else _)
      rw [if_pos hleft]
      exact readStoredByte_reads hc hl
    | _ => simp at hphase
  | fixed =>
    obtain ⟨rfl, htables⟩ := hphase
    exact readData_reads htables hc hl
  | dynamic =>
    cases sub with
    | dCounts => exact readCounts_reads hc hl
    | dCllens =>
      have hne : s.reg.clidx ≠ ncl s.reg.hclen := by simpa using hbuilds
      have hlt : s.ctx.clidx < s.ctx.ncl := lt_of_le_of_ne hphase hne
      show Fetched.Reads 1 _ _ (if s.ctx.clidx < s.ctx.ncl then _ else _)
      rw [if_pos hlt]
      exact readCllen_reads hc hl
    | dLens => exact readCl_reads hphase.1 hc hl
    | dBuild => cases hbuilds
    | dData => exact readData_reads hphase hc hl
    | _ => exact hphase.elim
  | _ => cases hrun

end Sys2Proof
end

section
/-! Proofs about progress: from every state of a session a step completes, and a read call in progress is answered after
a number of steps that the stream bits left bound. -/

namespace Sys2Proof.Machine

variable {s t : State}

/-! ### Every element that is selected completes (R420) -/

/-- A distance part copies or raises, where the window is retained. -/
theorem distancePart_completes (c x : Nat) (hret : Buf.Retains s.cfg.wsize s.buf) :
    ∃ t, distancePart c x s = .next t := by
  by_cases hlegal : ∃ dist, distanceOf s.cfg.mode c x = some dist ∧ dist ≤ s.total ∧ dist ≤ s.cfg.wsize
  · obtain ⟨dist, hdist, ht, hw⟩ := hlegal
    obtain ⟨t, hexec, -⟩ := distancePart_legal c x dist s hdist ht hw hret
    exact ⟨t, hexec⟩
  · obtain ⟨m, hexec, -⟩ := distancePart_illegal c x s fun dist hdist => by
      by_contra hboth
      exact hlegal ⟨dist, hdist, by omega, by omega⟩
    exact ⟨_, hexec⟩

theorem execBhdr_completes (final : Bool) (type : BitVec 2) (s : State) : ∃ t, execBhdr final type s = .next t := by
  unfold execBhdr
  split <;> exact ⟨_, rfl⟩

theorem execStoredHdr_completes (len nlen : BitVec 16) (s : State) : ∃ t, execStoredHdr len nlen s = .next t := by
  unfold execStoredHdr
  split <;> exact ⟨_, rfl⟩

theorem execDynClbuild_completes (s : State) : ∃ t, execDynClbuild s = .next t := by
  unfold execDynClbuild
  split <;> exact ⟨_, rfl⟩

theorem repeatLens_completes (r : Nat) (v : BitVec 4) (s : State) : ∃ t, repeatLens r v s = .next t := by
  unfold repeatLens
  split <;> exact ⟨_, rfl⟩

theorem zeroLens_completes (r : Nat) (s : State) : ∃ t, zeroLens r s = .next t := by
  unfold zeroLens
  split <;> exact ⟨_, rfl⟩

theorem execClRep16_completes (x : BitVec 2) (s : State) : ∃ t, execClRep16 x s = .next t := by
  rcases repeatsLength_or_fault s with ⟨v, hv⟩ | ⟨hvalid, hstart⟩
  · rw [execClRep16_of_repeats x hv]
    exact repeatLens_completes _ _ _
  · exact ⟨_, execClRep16_of_fault x hvalid hstart⟩

theorem exec_clRow_completes {i : Instr} (h : clRow i = true) (s : State) : ∃ t, exec i s = .next t := by
  rcases exec_of_clRow (s := s) h with ⟨v, he⟩ | ⟨x, he⟩ | ⟨r, he⟩ <;> rw [he]
  · exact ⟨_, rfl⟩
  · exact execClRep16_completes x s
  · exact zeroLens_completes r s

theorem execDynBuild_completes (s : State) : ∃ t, execDynBuild s = .next t := by
  unfold execDynBuild buildData
  split
  · exact ⟨_, rfl⟩
  · split <;> exact ⟨_, rfl⟩

theorem exec_dataRow_completes {mode : Mode} {i : Instr} (h : dataRow mode i = true)
    (hret : Buf.Retains s.cfg.wsize s.buf) : ∃ t, exec i s = .next t := by
  rcases exec_of_dataRow (s := s) h with ⟨v, he⟩ | he | ⟨n, he⟩ | ⟨sym, mlen, d, he⟩ <;> rw [he]
  · exact ⟨_, rfl⟩
  · exact ⟨_, rfl⟩
  · exact ⟨_, rfl⟩
  · exact distancePart_completes _ _ hret

/-- Every element that a state selects completes or raises, where the window is retained: its meaning has no stop. -/
theorem exec_completes_of_selects {c : Ctx} {i : Instr} (h : c.Selects i) (hret : Buf.Retains s.cfg.wsize s.buf) :
    ∃ t, exec i s = .next t := by
  unfold Ctx.Selects at h
  split at h
  · obtain ⟨⟨final, type⟩, hrow⟩ := Option.isSome_iff_exists.mp h
    rw [exec_of_headerRow hrow]
    exact execBhdr_completes final type s
  · obtain ⟨len, nlen, rfl⟩ := h
    exact execStoredHdr_completes len nlen s
  · obtain ⟨v, rfl⟩ := h
    exact ⟨_, rfl⟩
  · exact exec_dataRow_completes h hret
  · obtain ⟨hlit, hdist, hclen, rfl⟩ := h
    exact ⟨_, rfl⟩
  · obtain ⟨-, len, rfl⟩ | rfl := h
    · exact ⟨_, rfl⟩
    · exact execDynClbuild_completes s
  · exact exec_clRow_completes h s
  · subst h
    exact execDynBuild_completes s
  · exact exec_dataRow_completes h hret
  · exact h.elim

/-! ### Every step completes (R120, R351, R411, R420) -/

/-- In a running session the next element is read, or its reading raises. -/
theorem fetchElem_ne_rejected (hs : s.Inv) (hrun : running s.phase = true) (r : Reject) :
    fetchElem s ≠ .rejected r := by
  obtain ⟨hfailed, hclosed⟩ := running_open hrun
  obtain ⟨hc, hl⟩ := hs.parser hfailed hclosed
  intro hstop
  cases hbuilds : s.buildsNext with
  | true => rcases fetchElem_of_buildsNext hbuilds with h | h <;> exact nomatch h.symm.trans hstop
  | false =>
    have hread := fetchElem_reads hrun hs.phases hbuilds hc hl
    rw [hstop] at hread
    exact hread

/-- The element that a running session reads is one that its state selects (R120). -/
theorem selects_of_fetch (hs : s.Inv) (hrun : running s.phase = true) {i : Instr} {p : Parser}
    (h : fetchElem s = .ok i p) : s.ctx.Selects i := by
  obtain ⟨hfailed, hclosed⟩ := running_open hrun
  obtain ⟨hc, hl⟩ := hs.parser hfailed hclosed
  have hread : (fetchElem s).Yields s.ctx.Selects s.bits := decodeElem_yields hs.phases hc hl
  rw [h] at hread
  exact hread.1

theorem streamStep_completes (hs : s.Inv) (hrun : running s.phase = true) : ∃ t, streamStep s = .next t := by
  rcases streamStep_cases s with ⟨i, p, hf, hstep⟩ | ⟨e, p, -, hstep⟩ | ⟨r, hf, -⟩
  · rw [hstep]
    exact exec_completes_of_selects (selects_of_fetch hs hrun hf) (hs.retains (running_open hrun).2)
  · exact ⟨_, hstep⟩
  · exact absurd hf (fetchElem_ne_rejected hs hrun r)

theorem execConstruct_completes (raw : RawCfg) (source : List Byte) (s : State) :
    ∃ t, execConstruct raw source s = .next t := by
  unfold execConstruct
  split <;> exact ⟨_, rfl⟩

theorem execRead_completes (hopen : s.phase ≠ .closed) : ∃ t, execRead s = .next t := by
  rw [execRead, if_neg hopen]
  dsimp only
  split <;> exact ⟨_, rfl⟩

theorem execReadbuf_completes (n : Nat) (hopen : s.phase ≠ .closed) : ∃ t, execReadbuf n s = .next t := by
  rw [execReadbuf, if_neg hopen]
  dsimp only
  split
  · exact ⟨_, rfl⟩
  · split <;> exact ⟨_, rfl⟩

/-- Every host call completes, but for a read after `CLOSE`. -/
theorem call_completes_or_refused (c : HostCall) (s : State) :
    (∃ t, exec (callInstr c) s = .next t) ∨
      (s.phase = .closed ∧ exec (callInstr c) s = .refused .readAfterClose) := by
  by_cases hclosed : s.phase = .closed
  · cases c with
    | construct raw source => exact .inl (execConstruct_completes raw source s)
    | read => exact .inr ⟨hclosed, execRead_of_closed hclosed⟩
    | readbuf n => exact .inr ⟨hclosed, execReadbuf_of_closed n hclosed⟩
    | close => exact .inl ⟨_, execClose_of_closed hclosed⟩
  · left
    cases c with
    | construct raw source => exact execConstruct_completes raw source s
    | read => exact execRead_completes hclosed
    | readbuf n => exact execReadbuf_completes n hclosed
    | close => exact ⟨_, execClose_of_open hclosed⟩

/-- Settles O52: a stream operation is read and executed without a stop, and a call is refused only after `CLOSE`. -/
theorem stepNeverStops : Obligations.StepNeverStops := by
  intro s hs
  rcases step_cases s with ⟨c, -, hmore, hstep⟩ | ⟨c, -, -, hstep⟩ | ⟨c, rest, -, -, hstep⟩ | ⟨-, -, hstep⟩ <;>
    rw [hstep]
  · exact .inl (streamStep_completes hs (running_of_needsMore hmore))
  · exact call_completes_or_refused c s
  · exact call_completes_or_refused c (takeCall rest s)
  · exact .inl ⟨s, rfl⟩

/-! ### A stream operation makes progress (R151, R344) -/

/-- A bound on the stream operations left: two for each bit, as after an element with bits one without bits can
follow, and one where an element without bits is next. -/
def State.opsLeft (s : State) : Nat :=
  2 * s.bitsLeft + s.buildsNext.toNat

theorem opsLeft_le (s : State) : s.opsLeft ≤ 2 * s.bitsLeft + 1 :=
  Nat.add_le_add_left (Bool.toNat_le _) _

theorem buildsNext_eq_false (h : s.reg.sub = .dLens ∨ s.reg.sub = .dData) : s.buildsNext = false := by
  rcases h with h | h <;> simp [State.buildsNext, h]

/-- A stream operation that does not fault leaves the parser where reading its element left it. -/
theorem exec_bits {i : Instr} (hi : callRow i = false) (h : exec i s = .next t) (ht : t.phase ≠ .failed) :
    t.bits = s.bits := by
  rcases exec_effect hi h with ⟨hf, -, -⟩ | ⟨e, r, -, rfl⟩
  · rw [hf]
  · exact absurd rfl ht

/-- After `DYN.CLBUILD` the code lengths are next (R275). -/
theorem execDynClbuild_sub (h : execDynClbuild s = .next t) (ht : t.phase ≠ .failed) : t.reg.sub = .dLens := by
  unfold execDynClbuild at h
  split at h <;> cases h
  · exact absurd rfl ht
  · rfl

/-- After `DYN.BUILD` the data is next (R284). -/
theorem execDynBuild_sub (h : execDynBuild s = .next t) (ht : t.phase ≠ .failed) : t.reg.sub = .dData := by
  unfold execDynBuild buildData at h
  split at h
  · cases h
    exact absurd rfl ht
  · split at h <;> cases h
    · exact absurd rfl ht
    · rfl

/-- A stream operation that does not fault leaves fewer operations: it consumes a bit, or an element with bits is
next after it. -/
theorem streamStep_opsLeft_lt (hs : s.Inv) (hrun : running s.phase = true) (h : streamStep s = .next t)
    (ht : t.phase ≠ .failed) : t.opsLeft < s.opsLeft := by
  obtain ⟨hfailed, hclosed⟩ := running_open hrun
  obtain ⟨hc, hl⟩ := hs.parser hfailed hclosed
  cases hbuilds : s.buildsNext with
  | true =>
    have hlater : t.bits = s.bits ∧ t.buildsNext = false := by
      rcases fetchElem_of_buildsNext hbuilds with hf | hf <;> rw [streamStep_of_fetch_ok s _ _ hf] at h
      · exact ⟨exec_bits (s := atElement s.bits s) rfl h ht, buildsNext_eq_false (.inl (execDynClbuild_sub h ht))⟩
      · exact ⟨exec_bits (s := atElement s.bits s) rfl h ht, buildsNext_eq_false (.inr (execDynBuild_sub h ht))⟩
    obtain ⟨hbits, hnext⟩ := hlater
    simp only [State.opsLeft, State.bitsLeft, hbits, hnext, hbuilds, Bool.toNat_false, Bool.toNat_true]
    omega
  | false =>
    have hread := fetchElem_reads hrun hs.phases hbuilds hc hl
    have hfewer : t.bitsLeft + 1 ≤ s.bitsLeft := by
      rcases streamStep_cases s with ⟨i, p, hf, hstep⟩ | ⟨e, p, -, hstep⟩ | ⟨r, -, hstep⟩
      · have hbits := exec_bits (callRow_of_selects (selects_of_fetch hs hrun hf)) (hstep.symm.trans h) ht
        rw [hf] at hread
        obtain ⟨-, -, -, hp⟩ := hread
        rw [State.bitsLeft, hbits]
        exact hp
      · cases hstep.symm.trans h
        exact absurd rfl ht
      · exact nomatch hstep.symm.trans h
    have hle := opsLeft_le t
    unfold State.opsLeft at hle ⊢
    omega

theorem streamStep_host (hs : s.Inv) (hrun : running s.phase = true) (h : streamStep s = .next t) :
    t.host = s.host := by
  obtain ⟨p, ⟨e, r, -, rfl⟩ | ⟨-, hw, -⟩⟩ := streamStep_cases_of_inv hs hrun h
  · rfl
  · rw [hw.frame]
    rfl

/-! ### The end of the call (R342, R343, R345) -/

/-- The call in progress is a read call that wants at least a byte, of an open session. -/
theorem State.Inv.readCall {c : HostCall} (hs : s.Inv) (hcall : s.host.call = some c) :
    readCall (callInstr c) = true ∧ s.phase ≠ .closed ∧ 1 ≤ s.host.want := by
  have hok := hs.call
  rw [CallOk, hcall] at hok
  cases c with
  | construct | close => exact hok.elim
  | read => exact ⟨rfl, hok.1, hok.2.ge⟩
  | readbuf n =>
    obtain ⟨hopen, hlow, hhigh⟩ := hok
    exact ⟨decide_eq_true (hlow.trans hhigh), hopen, hlow⟩

/-- A call whose `Advance` is over with a byte at hand and no fault to report first is answered with bytes. -/
theorem call_answered_of_atHand {c : HostCall} (hs : s.Inv) (hcall : s.host.call = some c)
    (hover : s.needsMore s.host.want = false) (ha : 1 ≤ s.atHand)
    (hfirst : ¬(s.phase = .failed ∧ s.params.errDelivery = .immediate)) :
    ∃ t r, exec (callInstr c) s = .next t ∧ t.host = answered r s := by
  obtain ⟨hread, hopen, hwant⟩ := hs.readCall hcall
  cases c with
  | construct | close => cases hread
  | read =>
    have hlt : s.buf.drained < s.buf.out.length := Nat.lt_of_sub_pos ha
    exact ⟨_, _, readDelivers s _ hopen (.inr ⟨_, hcall, rfl, hover⟩) (List.getElem?_eq_getElem hlt) hfirst, rfl⟩
  | readbuf n =>
    obtain ⟨t, k, hexec, -, -, -, ht⟩ := readbufDelivers s n hopen (of_decide_eq_true hread) ha
      (.inr ⟨hcall, hwant, hover⟩) hfirst
    exact ⟨t, _, hexec, by rw [ht]⟩

/-- In `FAILED` an error is recorded (R28). -/
theorem State.Inv.exists_err (hs : s.Inv) (hfailed : s.phase = .failed) : ∃ e, s.err = some e := by
  obtain ⟨hiff, -⟩ := hs.status
  have hne : s.errReg ≠ 0 := (hiff (by simp [hfailed])).mp hfailed
  exact Option.ne_none_iff_exists'.mp (mt errReg_eq_zero_iff.mpr hne)

/-- An `Advance` that is over without the bytes wanted has no operation left to execute. -/
theorem stopped_of_over {want : Nat} (hover : s.needsMore want = false) (hfew : s.atHand < want) :
    running s.phase = false := by
  simpa [State.needsMore, hfew] using hover

/-- The phases in which no stream operation executes (R25, R344). -/
theorem phase_of_stopped (h : running s.phase = false) : s.phase = .done ∨ s.phase = .failed ∨ s.phase = .closed := by
  revert h
  cases s.phase <;> simp [running]

/-- A call whose `Advance` is over is answered: with end-of-stream, with the error kind, or with bytes. -/
theorem call_answered {c : HostCall} (hs : s.Inv) (hcall : s.host.call = some c)
    (hover : s.needsMore s.host.want = false) : ∃ t r, exec (callInstr c) s = .next t ∧ t.host = answered r s := by
  obtain ⟨hread, hopen, hwant⟩ := hs.readCall hcall
  have hcallOver : callOver (callInstr c) s := .inr ⟨c, hcall, rfl, hover⟩
  have hfault (hfailed : s.phase = .failed) (hreport : s.atHand = 0 ∨ s.params.errDelivery = .immediate) :
      ∃ t r, exec (callInstr c) s = .next t ∧ t.host = answered r s := by
    obtain ⟨e, he⟩ := hs.exists_err hfailed
    obtain ⟨t, hexec, ht⟩ := faultReported _ e s hread hfailed he hcallOver hreport
    exact ⟨t, _, hexec, by rw [ht]⟩
  by_cases hempty : s.atHand = 0
  · rcases phase_of_stopped (stopped_of_over hover (hempty ▸ hwant)) with hdone | hfailed | hclosed
    · obtain ⟨t, hexec, ht⟩ := endOfStreamReported _ s hread hdone hcallOver hempty
      exact ⟨t, _, hexec, by rw [ht]⟩
    · exact hfault hfailed (.inl hempty)
    · exact absurd hclosed hopen
  · by_cases hfirst : s.phase = .failed ∧ s.params.errDelivery = .immediate
    · exact hfault hfirst.1 (.inr hfirst.2)
    · exact call_answered_of_atHand hs hcall hover (Nat.one_le_iff_ne_zero.mpr hempty) hfirst

/-! ### The whole call (R344, R345, R471) -/

/-- A run whose first step is known, of any machine. -/
theorem run_succ_of_step {M : Host.Core} {k : Nat} {s t : M.State} (h : M.step s = .next t) :
    M.run (k + 1) s = M.run k t := by
  rw [Host.Core.run, h]

/-- Some run of at most `n` steps answers the call in progress, once. -/
def AnsweredWithin (n : Nat) (s : State) : Prop :=
  ∃ k t, k ≤ n ∧ Host.Core.run core k s = .next t ∧ t.host.call = none ∧
    t.host.responses.length = s.host.responses.length + 1

theorem answeredWithin_one {c : HostCall} (hs : s.Inv) (hcall : s.host.call = some c)
    (hover : s.needsMore s.host.want = false) : AnsweredWithin 1 s := by
  obtain ⟨t, r, hexec, ht⟩ := call_answered hs hcall hover
  refine ⟨1, t, le_rfl, run_succ_of_step (M := core) ((step_of_over hcall hover).trans hexec), ?_, ?_⟩ <;> rw [ht]
  · rfl
  · exact List.length_append

/-- One step before the answer, which leaves the host port. -/
theorem AnsweredWithin.step {n : Nat} (h : AnsweredWithin n t) (hstep : step s = .next t) (hhost : t.host = s.host) :
    AnsweredWithin (n + 1) s := by
  obtain ⟨k, u, hk, hrun, hnone, hone⟩ := h
  exact ⟨k + 1, u, Nat.succ_le_succ hk, (run_succ_of_step (M := core) hstep).trans hrun, hnone, hhost ▸ hone⟩

theorem AnsweredWithin.mono {n m : Nat} (h : AnsweredWithin n s) (hle : n ≤ m) : AnsweredWithin m s := by
  obtain ⟨k, u, hk, hrest⟩ := h
  exact ⟨k, u, hk.trans hle, hrest⟩

/-- The call is answered after the operations that are left, of which the last may fault, in one step more. -/
theorem answeredWithin_opsLeft {c : HostCall} (hs : s.Inv) (hcall : s.host.call = some c) :
    AnsweredWithin (s.opsLeft + 2) s := by
  induction hn : s.opsLeft using Nat.strong_induction_on generalizing s with
  | h n ih =>
    cases hmore : s.needsMore s.host.want with
    | false => exact (answeredWithin_one hs hcall hmore).mono (Nat.le_add_left 1 _)
    | true =>
      have hrun := running_of_needsMore hmore
      obtain ⟨t, h⟩ := streamStep_completes hs hrun
      have hstep : step s = .next t := (step_eq_streamStep s c hcall hmore).trans h
      have hhost := streamStep_host hs hrun h
      have ht := streamStep_inv hs hrun h
      have htcall : t.host.call = some c := by rw [hhost, hcall]
      by_cases hfailed : t.phase = .failed
      · have hover : t.needsMore t.host.want = false := by simp [State.needsMore, hfailed, running]
        exact ((answeredWithin_one ht htcall hover).step hstep hhost).mono (Nat.le_add_left 2 _)
      · have hlt := streamStep_opsLeft_lt hs hrun h hfailed
        exact ((ih _ (hn ▸ hlt) ht htcall rfl).step hstep hhost).mono (by omega)

/-- Settles O59: each operation leaves fewer, and after the last one the call is answered. -/
theorem readCallCompletes : Obligations.ReadCallCompletes := by
  intro s hs hcall
  obtain ⟨c, hc⟩ := Option.ne_none_iff_exists'.mp hcall
  have hle := opsLeft_le s
  exact (answeredWithin_opsLeft hs hc).mono (by omega)

end Sys2Proof.Machine
end
